-- ==== Sys2Proof/Word.lean ====
section
/-! DEFINITION. The words of the CHIP-8 CORE (spec 00_scope R7, R10; 30_encoding R70): widths only. -/

namespace Sys2Proof

/-- A byte: a general register, the delay timer, one cell of memory, the immediate `NN`. -/
abbrev Byte := BitVec 8

/-- A 16-bit word: the program counter, the index register, a return address, an opcode. -/
abbrev Word := BitVec 16

/-- A 4-bit nibble of an opcode (30_encoding R71), also the immediate `N` (R73). -/
abbrev Nibble := BitVec 4

/-- The 12-bit address field `NNN` (30_encoding R74) and the address of the load port (00_scope R9). -/
abbrev Addr12 := BitVec 12

/-- The index of a general register, 0 to 15 (10_state R20, 30_encoding R72). -/
abbrev RegIdx := Fin 16

/-- The index of a key, 0 to 15 (10_state R30). -/
abbrev KeyIdx := Fin 16

end Sys2Proof
end

