-- ==== Sys2Proof/Config.lean ====
section
/-! DEFINITION. What an implementation fixes (00_scope R7, R8) and the model's one free value, the byte on the
`rand_in` port (43_random R151). The parameters of R8 are plain data, held in a field of State that no event
changes, so that a statement about every state holds for every value the spec allows them
(DESIGN CHOICE, safe; assumption 2). -/

namespace Sys2Proof

/-- `MEM_SIZE` (00_scope R7): 4096 bytes, addresses 0x000 to 0xFFF. -/
abbrev memSize : Nat := 4096

/-- `PROG_BASE` (00_scope R7): where the program region begins. -/
abbrev progBase : Nat := 0x200

/-- `FB_W` (00_scope R7): columns of the framebuffer. -/
abbrev fbWidth : Nat := 64

/-- `FB_H` (00_scope R7): rows of the framebuffer. -/
abbrev fbHeight : Nat := 32

/-- `FONT_GLYPHS` times `FONT_GLYPH_BYTES` (00_scope R7): 16 glyphs of 5 bytes. -/
abbrev fontBytes : Nat := 80

/-- The parameters the source leaves open (00_scope R8). `fontBase` is at most 432, so that
`FONT_BASE + 80 ≤ 0x200` holds by its type; `STACK_DEPTH ≥ 1` is `Config.wf`. -/
structure Config where
  /-- `STACK_DEPTH`: how many return addresses the call stack holds (92_eei_decisions D4). -/
  stackDepth : Nat
  /-- `FONT_BASE`: the address of glyph 0 (D5). -/
  fontBase : Fin 433
  /-- `FONT_DATA`: byte `j` of glyph `g` at index `5*g + j` (10_state R41, D6). -/
  fontData : Vector Byte 80
  deriving DecidableEq, Repr

/-- FREE VALUE (43_random R150, R151; 93_implementation_defined U9; assumption 4): the byte that the `rand_in`
port shows at the `n`-th sample. It has no body: nothing about it can be proved but its width. -/
opaque Config.randIn : Nat → Byte

end Sys2Proof
end

