-- ==== Sys2Proof/Syntax.lean ====
section
/-! DEFINITION. The instructions: one constructor per row of spec/opcode_table.json, in the table's order
(30_encoding R80). Every operand's type is exactly its field's range (R72 to R74), since no field has a reserved
value (R89). `shr` and `shl` keep the field `Y` that they ignore (41_register_ops R128, R130), so that an
instruction determines its word. -/

namespace Sys2Proof

/-- The 33 instructions of the CHIP-8 CORE. -/
inductive Instr where
  /-- `00E0` CLS: clear screen (R100). -/
  | cls
  /-- `00EE` RET: return from subroutine (R101). -/
  | ret
  /-- `1NNN` JP NNN: unconditional jump (R102). -/
  | jp (nnn : Addr12)
  /-- `2NNN` CALL NNN: call subroutine (R103). -/
  | call (nnn : Addr12)
  /-- `3XNN` SE Vx, NN: skip if equal to immediate (R104). -/
  | seImm (x : RegIdx) (nn : Byte)
  /-- `4XNN` SNE Vx, NN: skip if not equal to immediate (R105). -/
  | sneImm (x : RegIdx) (nn : Byte)
  /-- `5XY0` SE Vx, Vy: skip if registers equal (R106). -/
  | seReg (x y : RegIdx)
  /-- `6XNN` LD Vx, NN: load immediate (R120). -/
  | ldImm (x : RegIdx) (nn : Byte)
  /-- `7XNN` ADD Vx, NN: add immediate, no flag (R121). -/
  | addImm (x : RegIdx) (nn : Byte)
  /-- `8XY0` LD Vx, Vy: copy (R122). -/
  | ldReg (x y : RegIdx)
  /-- `8XY1` OR Vx, Vy (R123). -/
  | orReg (x y : RegIdx)
  /-- `8XY2` AND Vx, Vy (R124). -/
  | andReg (x y : RegIdx)
  /-- `8XY3` XOR Vx, Vy (R125). -/
  | xorReg (x y : RegIdx)
  /-- `8XY4` ADD Vx, Vy: add with carry flag (R126). -/
  | addReg (x y : RegIdx)
  /-- `8XY5` SUB Vx, Vy: subtract, flag is no-borrow (R127). -/
  | subReg (x y : RegIdx)
  /-- `8XY6` SHR Vx: shift right by one; `Y` is ignored (R128). -/
  | shr (x y : RegIdx)
  /-- `8XY7` SUBN Vx, Vy: reverse subtract, flag is no-borrow (R129). -/
  | subnReg (x y : RegIdx)
  /-- `8XYE` SHL Vx: shift left by one; `Y` is ignored (R130). -/
  | shl (x y : RegIdx)
  /-- `9XY0` SNE Vx, Vy: skip if registers differ (R107). -/
  | sneReg (x y : RegIdx)
  /-- `ANNN` LD I, NNN: set index (R140). -/
  | ldI (nnn : Addr12)
  /-- `BNNN` JP V0, NNN: indirect jump (R108). -/
  | jpV0 (nnn : Addr12)
  /-- `CXNN` RND Vx, NN: masked random byte (R150). -/
  | rnd (x : RegIdx) (nn : Byte)
  /-- `DXYN` DRW Vx, Vy, N: draw sprite (R155). -/
  | drw (x y : RegIdx) (n : Nibble)
  /-- `EX9E` SKP Vx: skip if key pressed (R170). -/
  | skp (x : RegIdx)
  /-- `EXA1` SKNP Vx: skip if key not pressed (R171). -/
  | sknp (x : RegIdx)
  /-- `FX07` LD Vx, DT: read delay timer (R180). -/
  | ldVxDT (x : RegIdx)
  /-- `FX0A` LD Vx, K: key-wait (R172). -/
  | ldVxK (x : RegIdx)
  /-- `FX15` LD DT, Vx: set delay timer (R181). -/
  | ldDTVx (x : RegIdx)
  /-- `FX1E` ADD I, Vx: add register to index, no flag (R141). -/
  | addI (x : RegIdx)
  /-- `FX29` LD F, Vx: point index at a font glyph (R142). -/
  | ldF (x : RegIdx)
  /-- `FX33` LD B, Vx: store binary-coded decimal (R185). -/
  | ldB (x : RegIdx)
  /-- `FX55` LD [I], Vx: register dump (R186). -/
  | dump (x : RegIdx)
  /-- `FX65` LD Vx, [I]: register load (R187). -/
  | load (x : RegIdx)
  deriving DecidableEq, Repr

end Sys2Proof
end

