-- ==== Sys2Proof/WellFormed.lean ====
section
/-! DEFINITION. What is well formed. An instruction term has nothing to check: every value of every field is legal
in every row that has the field (30_encoding R89), and the operand types of `Instr` are exactly the fields' ranges.
What can be ill formed is a WORD (it matches no row of the opcode map: R78, R80, R85), a CONFIGURATION (00_scope R8)
and a program IMAGE (70_reset_and_hazards R246); each has its check here. The opcode map is written as R80 prints it,
mask and match per row; Decode.lean is written from the nibbles instead, so that the two can be compared. -/

namespace Sys2Proof

/-- One row of the opcode map of 30_encoding R80. -/
structure OpcodeRow where
  /-- The four nibbles, most significant first, letters for fields (00_scope R14). -/
  pattern : String
  /-- The bits the row fixes. -/
  mask : Word
  /-- What the fixed bits are. -/
  mtch : Word
  deriving DecidableEq, Repr

/-- The row of R80 an instruction belongs to. -/
def Instr.row : Instr → OpcodeRow
  | .cls => ⟨"00E0", 0xFFFF, 0x00E0⟩
  | .ret => ⟨"00EE", 0xFFFF, 0x00EE⟩
  | .jp _ => ⟨"1NNN", 0xF000, 0x1000⟩
  | .call _ => ⟨"2NNN", 0xF000, 0x2000⟩
  | .seImm _ _ => ⟨"3XNN", 0xF000, 0x3000⟩
  | .sneImm _ _ => ⟨"4XNN", 0xF000, 0x4000⟩
  | .seReg _ _ => ⟨"5XY0", 0xF00F, 0x5000⟩
  | .ldImm _ _ => ⟨"6XNN", 0xF000, 0x6000⟩
  | .addImm _ _ => ⟨"7XNN", 0xF000, 0x7000⟩
  | .ldReg _ _ => ⟨"8XY0", 0xF00F, 0x8000⟩
  | .orReg _ _ => ⟨"8XY1", 0xF00F, 0x8001⟩
  | .andReg _ _ => ⟨"8XY2", 0xF00F, 0x8002⟩
  | .xorReg _ _ => ⟨"8XY3", 0xF00F, 0x8003⟩
  | .addReg _ _ => ⟨"8XY4", 0xF00F, 0x8004⟩
  | .subReg _ _ => ⟨"8XY5", 0xF00F, 0x8005⟩
  | .shr _ _ => ⟨"8XY6", 0xF00F, 0x8006⟩
  | .subnReg _ _ => ⟨"8XY7", 0xF00F, 0x8007⟩
  | .shl _ _ => ⟨"8XYE", 0xF00F, 0x800E⟩
  | .sneReg _ _ => ⟨"9XY0", 0xF00F, 0x9000⟩
  | .ldI _ => ⟨"ANNN", 0xF000, 0xA000⟩
  | .jpV0 _ => ⟨"BNNN", 0xF000, 0xB000⟩
  | .rnd _ _ => ⟨"CXNN", 0xF000, 0xC000⟩
  | .drw _ _ _ => ⟨"DXYN", 0xF000, 0xD000⟩
  | .skp _ => ⟨"EX9E", 0xF0FF, 0xE09E⟩
  | .sknp _ => ⟨"EXA1", 0xF0FF, 0xE0A1⟩
  | .ldVxDT _ => ⟨"FX07", 0xF0FF, 0xF007⟩
  | .ldVxK _ => ⟨"FX0A", 0xF0FF, 0xF00A⟩
  | .ldDTVx _ => ⟨"FX15", 0xF0FF, 0xF015⟩
  | .addI _ => ⟨"FX1E", 0xF0FF, 0xF01E⟩
  | .ldF _ => ⟨"FX29", 0xF0FF, 0xF029⟩
  | .ldB _ => ⟨"FX33", 0xF0FF, 0xF033⟩
  | .dump _ => ⟨"FX55", 0xF0FF, 0xF055⟩
  | .load _ => ⟨"FX65", 0xF0FF, 0xF065⟩

/-- One instruction of each row, in the order of R80, with every field zero. -/
def instrOfEachRow : List Instr :=
  [.cls, .ret, .jp 0, .call 0, .seImm 0 0, .sneImm 0 0, .seReg 0 0, .ldImm 0 0, .addImm 0 0,
   .ldReg 0 0, .orReg 0 0, .andReg 0 0, .xorReg 0 0, .addReg 0 0, .subReg 0 0, .shr 0 0,
   .subnReg 0 0, .shl 0 0] ++
  [.sneReg 0 0, .ldI 0, .jpV0 0, .rnd 0 0, .drw 0 0 0, .skp 0, .sknp 0, .ldVxDT 0, .ldVxK 0,
   .ldDTVx 0, .addI 0, .ldF 0, .ldB 0, .dump 0, .load 0]

/-- The opcode map of R80: its 33 rows. -/
def opcodeMap : List OpcodeRow := instrOfEachRow.map Instr.row

/-- `op AND mask = match` (R78). -/
def OpcodeRow.fits (r : OpcodeRow) (op : Word) : Bool := op &&& r.mask == r.mtch

/-- A word is well formed when some row of the map fits it (R78); the others are unmapped (R85). -/
def wordMapped (op : Word) : Bool := opcodeMap.any (fun r => r.fits op)

/-- A configuration is well formed when `STACK_DEPTH ≥ 1` (00_scope R8); the constraint on `FONT_BASE` is in its type. -/
def Config.wf (c : Config) : Bool := decide (1 ≤ c.stackDepth)

/-- A program image of `len` bytes fits when `0x200 + len - 1 ≤ 0xFFF` (70_reset_and_hazards R246). -/
def imageFits (len : Nat) : Bool := decide (progBase + len ≤ memSize)

end Sys2Proof
end

