-- ==== Sys2Proof/Decode.lean ====
section
/-! DEFINITION. Decoding a 16-bit big-endian word into an instruction, nibble by nibble (30_encoding R70 to R74, R78),
total, rejecting by name; and after it the encoder, written from the same patterns of R80. The patterns of 30 of
the 33 rows are the spec's from general knowledge (R79, D8; assumption 11). -/

namespace Sys2Proof

/-- Why bytes are no instruction. -/
inductive DecodeError where
  /-- Fewer than the two bytes every instruction has (R70). -/
  | truncated
  /-- The word fits no row of the opcode map (R85). -/
  | unmapped (op : Word)
  deriving DecidableEq, Repr

/-- Nibble `a = op[15:12]` (R71). -/
def nibA (op : Word) : Nibble := op.extractLsb' 12 4

/-- Nibble `b = op[11:8]` (R71). -/
def nibB (op : Word) : Nibble := op.extractLsb' 8 4

/-- Nibble `c = op[7:4]` (R71). -/
def nibC (op : Word) : Nibble := op.extractLsb' 4 4

/-- Nibble `d = op[3:0]` (R71), also the immediate `N` (R73). -/
def nibD (op : Word) : Nibble := op.extractLsb' 0 4

/-- The register index `X = b` (R72). -/
def fieldX (op : Word) : RegIdx := (nibB op).toFin

/-- The register index `Y = c` (R72). -/
def fieldY (op : Word) : RegIdx := (nibC op).toFin

/-- The immediate `NN = op[7:0]` (R73). -/
def fieldNN (op : Word) : Byte := op.extractLsb' 0 8

/-- The address `NNN = op[11:0]` (R74). -/
def fieldNNN (op : Word) : Addr12 := op.extractLsb' 0 12

/-- Class `0`: only the two whole words `00E0` and `00EE` are mapped (R80, R87). -/
def decodeClass0 (op : Word) : Except DecodeError Instr :=
  if op = 0x00E0 then .ok .cls
  else if op = 0x00EE then .ok .ret
  else .error (.unmapped op)

/-- Class `8`: the last nibble selects the register operation (R80, R85). -/
def decodeClass8 (op : Word) : Except DecodeError Instr :=
  match (nibD op).toNat with
  | 0x0 => .ok (.ldReg (fieldX op) (fieldY op))
  | 0x1 => .ok (.orReg (fieldX op) (fieldY op))
  | 0x2 => .ok (.andReg (fieldX op) (fieldY op))
  | 0x3 => .ok (.xorReg (fieldX op) (fieldY op))
  | 0x4 => .ok (.addReg (fieldX op) (fieldY op))
  | 0x5 => .ok (.subReg (fieldX op) (fieldY op))
  | 0x6 => .ok (.shr (fieldX op) (fieldY op))
  | 0x7 => .ok (.subnReg (fieldX op) (fieldY op))
  | 0xE => .ok (.shl (fieldX op) (fieldY op))
  | _ => .error (.unmapped op)

/-- Class `E`: the second byte selects the key test (R80, R85). -/
def decodeClassE (op : Word) : Except DecodeError Instr :=
  if fieldNN op = 0x9E then .ok (.skp (fieldX op))
  else if fieldNN op = 0xA1 then .ok (.sknp (fieldX op))
  else .error (.unmapped op)

/-- Class `F`: the second byte selects the operation; `FX18` is unmapped (R80, R85, R88). -/
def decodeClassF (op : Word) : Except DecodeError Instr :=
  if fieldNN op = 0x07 then .ok (.ldVxDT (fieldX op))
  else if fieldNN op = 0x0A then .ok (.ldVxK (fieldX op))
  else if fieldNN op = 0x15 then .ok (.ldDTVx (fieldX op))
  else if fieldNN op = 0x1E then .ok (.addI (fieldX op))
  else if fieldNN op = 0x29 then .ok (.ldF (fieldX op))
  else if fieldNN op = 0x33 then .ok (.ldB (fieldX op))
  else if fieldNN op = 0x55 then .ok (.dump (fieldX op))
  else if fieldNN op = 0x65 then .ok (.load (fieldX op))
  else .error (.unmapped op)

/-- `decode(op)` of R78: the first nibble selects the class; `5XY0` and `9XY0` also require `d = 0`. -/
def decodeWord (op : Word) : Except DecodeError Instr :=
  match (nibA op).toNat with
  | 0x0 => decodeClass0 op
  | 0x1 => .ok (.jp (fieldNNN op))
  | 0x2 => .ok (.call (fieldNNN op))
  | 0x3 => .ok (.seImm (fieldX op) (fieldNN op))
  | 0x4 => .ok (.sneImm (fieldX op) (fieldNN op))
  | 0x5 => if nibD op = 0 then .ok (.seReg (fieldX op) (fieldY op)) else .error (.unmapped op)
  | 0x6 => .ok (.ldImm (fieldX op) (fieldNN op))
  | 0x7 => .ok (.addImm (fieldX op) (fieldNN op))
  | 0x8 => decodeClass8 op
  | 0x9 => if nibD op = 0 then .ok (.sneReg (fieldX op) (fieldY op)) else .error (.unmapped op)
  | 0xA => .ok (.ldI (fieldNNN op))
  | 0xB => .ok (.jpV0 (fieldNNN op))
  | 0xC => .ok (.rnd (fieldX op) (fieldNN op))
  | 0xD => .ok (.drw (fieldX op) (fieldY op) (nibD op))
  | 0xE => decodeClassE op
  | 0xF => decodeClassF op
  | _ => .error (.unmapped op)

/-- Two bytes as a big-endian word, the byte at the lower address in bits 15 to 8 (20_memory R51). -/
def wordOfBytes (hi lo : Byte) : Word := hi ++ lo

/-- The first instruction of a byte stream and the bytes after it (R51, R70). -/
def decode : List Byte → Except DecodeError (Instr × List Byte)
  | hi :: lo :: rest =>
    match decodeWord (wordOfBytes hi lo) with
    | .ok i => .ok (i, rest)
    | .error e => .error e
  | _ => .error .truncated

/-- The field of a register index. -/
def regField (r : RegIdx) : Nibble := BitVec.ofFin r

/-- Format `ADDR` (R77): `k N N N`. -/
def packAddr (a : Nibble) (nnn : Addr12) : Word := a ++ nnn

/-- Format `REGIMM` (R77): `k X N N`. -/
def packRegImm (a : Nibble) (x : RegIdx) (nn : Byte) : Word := a ++ (regField x ++ nn)

/-- Formats `REGREG` and `DRAW` (R77): `k X Y d`. -/
def packRegReg (a : Nibble) (x y : RegIdx) (d : Nibble) : Word := a ++ (regField x ++ (regField y ++ d))

/-- The word of an instruction (R80). -/
def encode : Instr → Word
  | .cls => 0x00E0
  | .ret => 0x00EE
  | .jp nnn => packAddr 0x1 nnn
  | .call nnn => packAddr 0x2 nnn
  | .seImm x nn => packRegImm 0x3 x nn
  | .sneImm x nn => packRegImm 0x4 x nn
  | .seReg x y => packRegReg 0x5 x y 0x0
  | .ldImm x nn => packRegImm 0x6 x nn
  | .addImm x nn => packRegImm 0x7 x nn
  | .ldReg x y => packRegReg 0x8 x y 0x0
  | .orReg x y => packRegReg 0x8 x y 0x1
  | .andReg x y => packRegReg 0x8 x y 0x2
  | .xorReg x y => packRegReg 0x8 x y 0x3
  | .addReg x y => packRegReg 0x8 x y 0x4
  | .subReg x y => packRegReg 0x8 x y 0x5
  | .shr x y => packRegReg 0x8 x y 0x6
  | .subnReg x y => packRegReg 0x8 x y 0x7
  | .shl x y => packRegReg 0x8 x y 0xE
  | .sneReg x y => packRegReg 0x9 x y 0x0
  | .ldI nnn => packAddr 0xA nnn
  | .jpV0 nnn => packAddr 0xB nnn
  | .rnd x nn => packRegImm 0xC x nn
  | .drw x y n => packRegReg 0xD x y n
  | .skp x => packRegImm 0xE x 0x9E
  | .sknp x => packRegImm 0xE x 0xA1
  | .ldVxDT x => packRegImm 0xF x 0x07
  | .ldVxK x => packRegImm 0xF x 0x0A
  | .ldDTVx x => packRegImm 0xF x 0x15
  | .addI x => packRegImm 0xF x 0x1E
  | .ldF x => packRegImm 0xF x 0x29
  | .ldB x => packRegImm 0xF x 0x33
  | .dump x => packRegImm 0xF x 0x55
  | .load x => packRegImm 0xF x 0x65

/-- The high byte of a word. -/
def hiByte (w : Word) : Byte := w.extractLsb' 8 8

/-- The low byte of a word. -/
def loByte (w : Word) : Byte := w.extractLsb' 0 8

/-- The two bytes of a word as memory holds them: high byte at the lower address (R51). -/
def bytesOfWord (w : Word) : List Byte := [hiByte w, loByte w]

/-- The bytes of an instruction as memory holds them. -/
def encodeBytes (i : Instr) : List Byte := bytesOfWord (encode i)

/-- The one word of an opcode-table row whose bits are `w`: the bits above `nbits` are zero (R70: 16 bits). -/
def tableWord (nbits w : Nat) : Word := BitVec.ofNat 16 (w % 2 ^ nbits)

/-- What the decoder reads from an instruction whose bits, numbered as spec/opcode_table.json numbers them, are `w`. -/
def decodeTableWord (nbits w : Nat) : Option Instr :=
  match decode (bytesOfWord (tableWord nbits w)) with
  | .ok (i, _) => some i
  | .error _ => none

end Sys2Proof
end

