-- ==== Sys2Proof/Machine/Defaults.lean ====
section
/-! DEFINITION. The defaults the spec gives the open parameters (00_scope R8, 92_eei_decisions D4 to D6). The font
bytes are the table of 10_state R41, which the spec supplies from general knowledge (93 G4; UNVERIFIED, unsafe;
assumption 3). -/

namespace Sys2Proof.Machine

/-- Glyphs 0 to 7 of `FONT_DATA` (10_state R41), five bytes a line. -/
def fontGlyphs0to7 : List Byte :=
  [0xF0, 0x90, 0x90, 0x90, 0xF0,
   0x20, 0x60, 0x20, 0x20, 0x70,
   0xF0, 0x10, 0xF0, 0x80, 0xF0,
   0xF0, 0x10, 0xF0, 0x10, 0xF0,
   0x90, 0x90, 0xF0, 0x10, 0x10,
   0xF0, 0x80, 0xF0, 0x10, 0xF0,
   0xF0, 0x80, 0xF0, 0x90, 0xF0,
   0xF0, 0x10, 0x20, 0x40, 0x40]

/-- Glyphs 8 to F of `FONT_DATA` (10_state R41), five bytes a line. -/
def fontGlyphs8toF : List Byte :=
  [0xF0, 0x90, 0xF0, 0x90, 0xF0,
   0xF0, 0x90, 0xF0, 0x10, 0xF0,
   0xF0, 0x90, 0xF0, 0x90, 0x90,
   0xE0, 0x90, 0xE0, 0x90, 0xE0,
   0xF0, 0x80, 0x80, 0x80, 0xF0,
   0xE0, 0x90, 0x90, 0x90, 0xE0,
   0xF0, 0x80, 0xF0, 0x80, 0xF0,
   0xF0, 0x80, 0xF0, 0x80, 0x80]

/-- The default `FONT_DATA`: byte `j` of glyph `g` at index `5*g + j` (10_state R41). -/
def defaultFontData : Vector Byte 80 := ⟨(fontGlyphs0to7 ++ fontGlyphs8toF).toArray, rfl⟩

/-- The default parameters: `STACK_DEPTH = 16`, `FONT_BASE = 0x000`, `FONT_DATA` of R41 (00_scope R8). -/
def defaultConfig : Config := { stackDepth := 16, fontBase := 0, fontData := defaultFontData }

end Sys2Proof.Machine
end

