-- ==== Sys2Proof/Machine/State.lean ====
section
/-! DEFINITION. The state of the CHIP-8 CORE as plain data (10_state), and its value after reset (R46). The last four
fields of `State` are the model's own: the open parameters, whether the load port is still legal, how many random
bytes have been sampled, and the host's coming events; each has an assumption log entry. -/

namespace Sys2Proof.Machine

/-- `RunState` (10_state R42). -/
inductive RunState where
  | running
  | halted
  deriving DecidableEq, Repr

/-- The `cause` of the fault record (60_exceptions R200 to R204); `noFault` is code 0, no fault. -/
inductive FaultCause where
  | noFault
  /-- `00EE` with an empty stack (R200). -/
  | stackUnderflow
  /-- The fetched word is unmapped (R201). -/
  | unsupportedOpcode
  /-- A memory access would reach an address above 0xFFF (R202). -/
  | addressOutOfRange
  /-- `2NNN` with a full stack (R203). -/
  | stackOverflow
  /-- `EX9E`, `EXA1` or `FX29` with a register above 15 (R204). -/
  | operandOutOfRange
  deriving DecidableEq, Repr

/-- The `Fault` record (10_state R43, 60_exceptions R205). -/
structure FaultRecord where
  cause : FaultCause
  pc : Word
  opcode : Word
  info : BitVec 17
  deriving DecidableEq, Repr

/-- The record while no fault has happened: all zero (10_state R43). -/
def FaultRecord.zero : FaultRecord := { cause := .noFault, pc := 0, opcode := 0, info := 0 }

/-- The events the host can send, one port each (00_scope R9, 60_exceptions R226). -/
inductive HostEvent where
  /-- Put every piece of state at its reset value (70_reset_and_hazards R240). -/
  | reset
  /-- Write one byte of memory, legal only between reset and the first tick (70 R245). -/
  | load (addr : Addr12) (byte : Byte)
  /-- Execute exactly one instruction (30_encoding R76). -/
  | tick
  /-- Decrement the delay timer, clamped at zero (60 R220). -/
  | timerDec
  /-- Set one keypad slot (60 R222). -/
  | keyChange (key : KeyIdx) (pressed : Bool)
  deriving DecidableEq, Repr

/-- The framebuffer `FB[y][x]`: 32 rows of 64 cells (10_state R35). -/
abbrev Framebuffer := Vector (Vector Bool fbWidth) fbHeight

/-- Memory as (address, byte) pairs; what an unlisted address reads as is `resetByte`, and the canonical form is
`Memory.wf` (Machine/Ops.lean). -/
abbrev Memory := List Host.Cell

/-- The whole state (10_state, opening tuple). -/
structure State where
  /-- `V[0]` to `V[15]` (R20); `V[15]` is VF (R21). -/
  v : Vector Byte 16
  /-- The program counter (R23). -/
  pc : Word
  /-- The index register `I` (R26). -/
  index : Word
  /-- The live entries of the call stack, the most recent first; `SP` is its length (R27, R28; assumption 8). -/
  stack : List Word
  /-- The delay timer `DT` (R29). -/
  dt : Byte
  /-- `Key[0]` to `Key[15]`: true is pressed (R30). -/
  keys : Vector Bool 16
  /-- The framebuffer (R35). -/
  fb : Framebuffer
  /-- `Mem[0..4095]` (R38). -/
  mem : Memory
  /-- `RunState` (R42). -/
  runState : RunState
  /-- The `Fault` record (R43). -/
  fault : FaultRecord
  /-- MODEL'S OWN: the parameters of 00_scope R8, which no event changes (assumption 2). -/
  config : Config
  /-- MODEL'S OWN: the load port is still legal, between reset and the first tick (70 R245; assumption 6). -/
  loadOpen : Bool
  /-- MODEL'S OWN: how many bytes have been sampled from `rand_in` (43_random R150; assumption 4). -/
  draws : Nat
  /-- MODEL'S OWN: the host's coming events, the next one first; when it is empty the next event is a tick
  (60 R226; assumption 5). -/
  schedule : List HostEvent
  deriving DecidableEq, Repr

/-- Reasons to stop without a next state: there are none. The five fatal faults of 60_exceptions R200 to R204 are
TAKEN as R205 describes (the record written, `RunState` Halted, nothing else changed), a next state, by `State.raise`
(Machine/Ops.lean); a halted machine goes on taking events (R206, R227). Safe (assumption 1). -/
inductive Fault
  deriving DecidableEq, Repr

/-- Why a step has no meaning in this model. -/
inductive Refusal where
  /-- An instruction with no meaning yet, by its mnemonic. Raised by nothing: every arm of `exec` has its meaning. Safe. -/
  | notModelled (mnemonic : String)
  /-- A `load` event after the first tick, of which the spec says that it "is not specified and a model gives it no
  move" (20_memory R62). Raised by `applyEvent` (Machine/Tick.lean), by no instruction. Safe (assumption 6). -/
  | loadAfterFirstTick
  deriving DecidableEq, Repr

/-- What a step, an event or an instruction answers. -/
abbrev Result := Host.Outcome State Fault Refusal

/-- The machine right after reset (10_state R46, 70_reset_and_hazards R240). The zeros of `v`, `index`, `dt`, `keys`,
`fb` and of memory outside the font are the spec's "(chosen)" values (assumption 7); the parameters are the defaults
of 00_scope R8. -/
def State.reset : State :=
  { v := Vector.replicate 16 0
    pc := 0x0200
    index := 0
    stack := []
    dt := 0
    keys := Vector.replicate 16 false
    fb := Vector.replicate fbHeight (Vector.replicate fbWidth false)
    mem := []
    runState := .running
    fault := FaultRecord.zero
    config := defaultConfig
    loadOpen := true
    draws := 0
    schedule := [] }

end Sys2Proof.Machine
end

