-- ==== Sys2Proof/Machine/Ops.lean ====
section
/-! DEFINITION. The named operations over registers, the pc, the stack, memory, the keypad and the framebuffer, and
taking a fault as ONE shared operation (`State.raise`, 60_exceptions R205). Every read and write of a piece of state
goes through here. There is no return from a fault (60 R209). -/

namespace Sys2Proof.Machine

/-! ### General registers (10_state R20, R21) -/

/-- `V[r]`. -/
def State.getV (s : State) (r : RegIdx) : Byte := s.v[r.val]

/-- `V[r] <- b`. -/
def State.setV (s : State) (r : RegIdx) (b : Byte) : State := { s with v := s.v.set r.val b }

/-- The index of VF (R21). -/
abbrev flagReg : RegIdx := 15

/-- Every register index, ascending. -/
def allRegs : List RegIdx := [0, 1, 2, 3, 4, 5, 6, 7, 8, 9, 10, 11, 12, 13, 14, 15]

/-! ### Program counter (10_state R23, R24) -/

/-- `pc <- target`. -/
def State.setPc (s : State) (target : Word) : State := { s with pc := target }

/-- The default advance, `pc <- pc0 + 2` (30_encoding R76). -/
def State.advance (s : State) : State := s.setPc (s.pc + 2)

/-- `pc0 + 4` if the condition holds, else `pc0 + 2` (R24, 40_control_flow R113). -/
def State.skipIf (s : State) (cond : Bool) : State := if cond then s.setPc (s.pc + 4) else s.advance

/-! ### Index register, delay timer, random input -/

/-- `I <- w` (10_state R26). -/
def State.setIndex (s : State) (w : Word) : State := { s with index := w }

/-- `DT <- b` (10_state R29). -/
def State.setDt (s : State) (b : Byte) : State := { s with dt := b }

/-- One sample of `rand_in` is taken (43_random R150): the next sample is a fresh byte (assumption 4). -/
def State.countDraw (s : State) : State := { s with draws := s.draws + 1 }

/-! ### Call stack (10_state R27, R28) -/

/-- `SP`: the number of live entries. -/
def State.sp (s : State) : Nat := s.stack.length

/-- The stack's contents replaced. -/
def State.setStack (s : State) (st : List Word) : State := { s with stack := st }

/-- `SP = STACK_DEPTH` (a stack deeper than that, which no run reaches, counts as full: assumption 8). -/
def State.stackFull (s : State) : Bool := decide (s.config.stackDepth ≤ s.sp)

/-! ### Faults (60_exceptions R205) -/

/-- Taking a fault: the record is written with the pc of the faulting tick, `RunState` becomes Halted, and nothing
else changes. `op` is the fetched word, 0 if the fetch itself faulted. -/
def State.raise (s : State) (cause : FaultCause) (op : Word) (info : Nat) : State :=
  { s with
    runState := .halted
    fault := { cause := cause, pc := s.pc, opcode := op, info := BitVec.ofNat 17 info } }

/-! ### Memory (20_memory R50, R54 to R56) -/

/-- What a byte reads as that nothing has written: `FONT_DATA` in the font region, zero elsewhere (10_state R46;
assumptions 3, 7 and 14). -/
def resetByte (c : Config) (a : Nat) : Byte :=
  if h : c.fontBase.val ≤ a ∧ a < c.fontBase.val + fontBytes then
    c.fontData[a - c.fontBase.val]'(by have := h.1; have := h.2; simp only [fontBytes] at *; omega)
  else 0

/-- The byte at `a`, where `unlisted` says what an address reads as that the list does not hold. -/
def Memory.read (unlisted : Nat → Byte) : Memory → Nat → Byte
  | [], a => unlisted a
  | (k, b) :: rest, a => if k = a then b else Memory.read unlisted rest a

/-- Every entry of `a` taken out. -/
def Memory.erase (m : Memory) (a : Nat) : Memory := m.filter (fun c => c.1 != a)

/-- An entry put before the first larger address. -/
def Memory.insert : Memory → Nat → Byte → Memory
  | [], a, b => [(a, b)]
  | (k, u) :: rest, a, b => if a < k then (a, b) :: (k, u) :: rest else (k, u) :: Memory.insert rest a b

/-- The byte at `a` replaced; writing what an unlisted address reads as removes the entry. -/
def Memory.write (unlisted : Nat → Byte) (m : Memory) (a : Nat) (b : Byte) : Memory :=
  if b = unlisted a then m.erase a else (m.erase a).insert a b

/-- The canonical form: addresses strictly rising and below 4096, and no entry equal to what its address would read
as without it. -/
abbrev Memory.wf (unlisted : Nat → Byte) (m : Memory) : Prop :=
  m.Pairwise (fun c d => c.1 < d.1) ∧ ∀ c ∈ m, c.1 < memSize ∧ c.2 ≠ unlisted c.1

/-- `Mem[a]`. -/
def State.readByte (s : State) (a : Nat) : Byte := s.mem.read (resetByte s.config) a

/-- `Mem[a] <- b`. -/
def State.writeByte (s : State) (a : Nat) (b : Byte) : State :=
  { s with mem := s.mem.write (resetByte s.config) a b }

/-- `n` bytes from `base`, ascending (`MemRead` of 00_scope R12, after its check). -/
def State.readBytes (s : State) (base n : Nat) : List Byte :=
  (List.range n).map (fun k => s.readByte (base + k))

/-- The bytes stored from `base` on, ascending (`MemWrite` of 00_scope R12, after its check). -/
def State.writeBytes (s : State) (base : Nat) : List Byte → State
  | [] => s
  | b :: rest => (s.writeByte base b).writeBytes (base + 1) rest

/-- Some byte of an access of `n` bytes from `base` lies above 0xFFF; an access of no byte is not checked (20_memory R55). -/
def accessFaults (base n : Nat) : Bool := decide (0 < n ∧ 0xFFF < base + n - 1)

/-- The check on the whole range before the first byte moves (R55): either `AddressOutOfRange` with the highest
address of the access, or what the instruction does. -/
def State.guardAccess (s : State) (op : Word) (base n : Nat) (done : State) : State :=
  if accessFaults base n then s.raise .addressOutOfRange op (base + n - 1) else done

/-- The check on a key number or a font digit (45_keypad R170, R171; 42_addressing R142): `OperandOutOfRange` with the
value if it is above 15, or what the instruction does. -/
def State.guardDigit (s : State) (op : Word) (b : Byte) (done : State) : State :=
  if 15 < b.toNat then s.raise .operandOutOfRange op b.toNat else done

/-- The load port is closed by the first tick (70_reset_and_hazards R248). -/
def State.closeLoad (s : State) : State := { s with loadOpen := false }

/-! ### Keypad (10_state R30, R31) -/

/-- `is_pressed(k)`: `Key[k] = 1`. -/
def State.key (s : State) (k : KeyIdx) : Bool := s.keys[k.val]

/-- `Key[k] <- pressed`. -/
def State.setKey (s : State) (k : KeyIdx) (pressed : Bool) : State := { s with keys := s.keys.set k.val pressed }

/-- Every key index, ascending. -/
def allKeys : List KeyIdx := [0, 1, 2, 3, 4, 5, 6, 7, 8, 9, 10, 11, 12, 13, 14, 15]

/-- `current_key()`: the lowest pressed key, or none (R31). -/
def State.currentKey (s : State) : Option KeyIdx := allKeys.find? s.key

/-- The key index of a byte that `guardDigit` has passed. -/
def keyOfByte (b : Byte) : KeyIdx := Fin.ofNat 16 b.toNat

/-! ### Framebuffer (10_state R35) -/

/-- The column of a natural number, modulo the width. -/
def wrapX (n : Nat) : Fin fbWidth := Fin.ofNat fbWidth n

/-- The row of a natural number, modulo the height. -/
def wrapY (n : Nat) : Fin fbHeight := Fin.ofNat fbHeight n

/-- `FB[y][x]`. -/
def Framebuffer.cell (fb : Framebuffer) (y : Fin fbHeight) (x : Fin fbWidth) : Bool := fb[y.val][x.val]

/-- `FB[y][x] <- lit`. -/
def Framebuffer.setCell (fb : Framebuffer) (y : Fin fbHeight) (x : Fin fbWidth) (lit : Bool) : Framebuffer :=
  fb.set y.val (fb[y.val].set x.val lit)

/-- Every cell unlit: what `clear()` leaves (40_control_flow R100). -/
def blankFramebuffer : Framebuffer := Vector.replicate fbHeight (Vector.replicate fbWidth false)

/-- The state's cell `FB[y][x]`. -/
def State.cell (s : State) (y : Fin fbHeight) (x : Fin fbWidth) : Bool := s.fb.cell y x

/-- The framebuffer replaced. -/
def State.setFb (s : State) (fb : Framebuffer) : State := { s with fb := fb }

end Sys2Proof.Machine
end

