-- ==== Sys2Proof/Machine/Ports.lean ====
section
/-! DEFINITION. The output ports (00_scope R9): read-only projections of the state, with no side effect
(60_exceptions R224). No instruction reads them. -/

namespace Sys2Proof.Machine

/-- The 3-bit code of a fault cause (60_exceptions R200 to R204, 92_eei_decisions D17). -/
def FaultCause.code : FaultCause → BitVec 3
  | .noFault => 0
  | .stackUnderflow => 1
  | .unsupportedOpcode => 2
  | .addressOutOfRange => 3
  | .stackOverflow => 4
  | .operandOutOfRange => 5

/-- `fb_out`: the whole grid (10_state R36). -/
def State.fbOut (s : State) : Framebuffer := s.fb

/-- `halted`: 1 after a fatal fault (60_exceptions R206). -/
def State.haltedOut (s : State) : Bool := decide (s.runState = .halted)

/-- `fault_cause` (10_state R43). -/
def State.faultCauseOut (s : State) : BitVec 3 := s.fault.cause.code

/-- `fault_pc` (10_state R43). -/
def State.faultPcOut (s : State) : Word := s.fault.pc

/-- `fault_opcode` (10_state R43). -/
def State.faultOpcodeOut (s : State) : Word := s.fault.opcode

/-- `fault_info` (10_state R43, 90_conflicts C8). -/
def State.faultInfoOut (s : State) : BitVec 17 := s.fault.info

end Sys2Proof.Machine
end

