-- ==== Sys2Proof/Machine/Operands.lean ====
section
/-! DEFINITION. The operand forms and the values instructions compute from them (00_scope R10, R14; 30_encoding R72
to R74). Nothing is sign-extended, scaled or shifted (R73). -/

namespace Sys2Proof.Machine

/-- `trunc_8(n)`: the low 8 bits of a natural number (00_scope R10). -/
def trunc8 (n : Nat) : Byte := BitVec.ofNat 8 n

/-- `trunc_16(n)`: the low 16 bits of a natural number (00_scope R10). -/
def trunc16 (n : Nat) : Word := BitVec.ofNat 16 n

/-- `zext_16(NNN)` (30_encoding R74). -/
def zextAddr (nnn : Addr12) : Word := nnn.setWidth 16

/-- `zext_8(k)` of a key index (45_keypad R172). -/
def byteOfKey (k : KeyIdx) : Byte := BitVec.ofNat 8 k.val

/-- `(vx + vy) mod 256` (41_register_ops R121, R126). -/
def addBytes (vx vy : Byte) : Byte := trunc8 (vx.toNat + vy.toNat)

/-- `(minuend - subtrahend) mod 256`, written `trunc_8(m - s + 256)` (R127, R129). -/
def subBytes (minuend subtrahend : Byte) : Byte := trunc8 (minuend.toNat + 256 - subtrahend.toNat)

/-- `vx >> 1` (R128). -/
def halve (vx : Byte) : Byte := vx >>> 1

/-- `trunc_8(vx << 1)` (R130). -/
def double (vx : Byte) : Byte := trunc8 (2 * vx.toNat)

/-- `NNN + V[0]`, not reduced modulo 4096 (40_control_flow R108). -/
def indirectTarget (s : State) (nnn : Addr12) : Word := trunc16 (nnn.toNat + (s.getV 0).toNat)

/-- `trunc_16(I + V[X])` (42_addressing R141). -/
def indexPlus (s : State) (x : RegIdx) : Word := trunc16 (s.index.toNat + (s.getV x).toNat)

/-- `FONT_BASE + 5 * vx` (42_addressing R142). -/
def glyphAddr (c : Config) (vx : Byte) : Word := trunc16 (c.fontBase.val + 5 * vx.toNat)

/-- The base of every data access: `I` as a natural number (20_memory R50; 47_bcd_block, the one addressing mode). -/
def State.base (s : State) : Nat := s.index.toNat

/-- The return address of a call at `pc0`: `pc0 + 2` (40_control_flow R103). -/
def State.returnAddr (s : State) : Word := s.pc + 2

/-- The hundreds, tens and ones digits (47_bcd_block R185). -/
def bcdDigits (vx : Byte) : List Byte :=
  [trunc8 (vx.toNat / 100), trunc8 (vx.toNat / 10 % 10), trunc8 (vx.toNat % 10)]

/-- `V0` to `Vx`, ascending (47_bcd_block R186, R187). -/
def regsUpTo (x : RegIdx) : List RegIdx := allRegs.take (x.val + 1)

/-- How many bytes a dump or load moves: `X + 1` (20_memory R53). -/
def blockLength (x : RegIdx) : Nat := x.val + 1

/-- `V[i] <- Mem[base + i]` for each register listed, in order (47_bcd_block R187). -/
def State.loadRegs (s : State) (base : Nat) (rs : List RegIdx) : State :=
  rs.foldl (fun t r => t.setV r (t.readByte (base + r.val))) s

end Sys2Proof.Machine
end

