-- ==== Sys2Proof/Machine/Flags.lean ====
section
/-! DEFINITION. The flag computations: VF is written 0x00 or 0x01 and nothing else (10_state R21), after the result
(R22; 41_register_ops R137). -/

namespace Sys2Proof.Machine

/-- The value VF takes as a flag (R21). -/
def flagByte (flag : Bool) : Byte := if flag then 0x01 else 0x00

/-- The carry of `8XY4`: the unsigned sum is above 255 (R126, R136). -/
def carryOut (vx vy : Byte) : Bool := decide (255 < vx.toNat + vy.toNat)

/-- The flag of `8XY5` and `8XY7`: no borrow, minuend ≥ subtrahend (R127, R129, R136). -/
def noBorrow (minuend subtrahend : Byte) : Bool := decide (subtrahend.toNat ≤ minuend.toNat)

/-- The bit `8XY6` shifts out: bit 0 before the shift (R128). -/
def shiftedOutLow (vx : Byte) : Bool := vx.getLsbD 0

/-- The bit `8XYE` shifts out: bit 7 before the shift (R130). -/
def shiftedOutHigh (vx : Byte) : Bool := vx.getLsbD 7

/-- `VF <- flag`. -/
def State.setFlag (s : State) (flag : Bool) : State := s.setV flagReg (flagByte flag)

/-- `V[X] <- result`, then `VF <- flag` (10_state R22): with `X = 0xF` the flag remains. -/
def State.setResultFlag (s : State) (x : RegIdx) (result : Byte) (flag : Bool) : State :=
  (s.setV x result).setFlag flag

end Sys2Proof.Machine
end

