-- ==== Sys2Proof/Machine/Addressing.lean ====
section
/-! DEFINITION. The index-register instructions (42_addressing R140 to R142). All advance pc by 2, access no memory
and write only `I`; none writes VF. -/

namespace Sys2Proof.Machine

/-- `ANNN` LD I, NNN (R140). -/
def execLdI (nnn : Addr12) (s : State) : Result := .next (s.setIndex (zextAddr nnn)).advance

/-- `FX1E` ADD I, Vx (R141): wraps at 16 bits, no flag. -/
def execAddI (x : RegIdx) (s : State) : Result := .next (s.setIndex (indexPlus s x)).advance

/-- `FX29` LD F, Vx (R142): the glyph's address, or `OperandOutOfRange(V[X])` above 15. -/
def execLdF (x : RegIdx) (s : State) : Result :=
  .next (s.guardDigit (encode (.ldF x)) (s.getV x) (s.setIndex (glyphAddr s.config (s.getV x))).advance)

end Sys2Proof.Machine
end

