-- ==== Sys2Proof/Machine/Block.lean ====
section
/-! DEFINITION. BCD and register block transfer (47_bcd_block R185 to R187): the only data loads and stores. The whole
range is checked before the first byte moves (20_memory R55), and `I` keeps its value. -/

namespace Sys2Proof.Machine

/-- `FX33` LD B, Vx (R185): the three decimal digits to `Mem[I..I+2]`. -/
def execLdB (x : RegIdx) (s : State) : Result :=
  .next (s.guardAccess (encode (.ldB x)) s.base 3 (s.writeBytes s.base (bcdDigits (s.getV x))).advance)

/-- `FX55` LD [I], Vx (R186): `V0..Vx` to `Mem[I..I+X]`. -/
def execDump (x : RegIdx) (s : State) : Result :=
  .next (s.guardAccess (encode (.dump x)) s.base (blockLength x)
    (s.writeBytes s.base ((regsUpTo x).map s.getV)).advance)

/-- `FX65` LD Vx, [I] (R187): `Mem[I..I+X]` to `V0..Vx`. -/
def execLoad (x : RegIdx) (s : State) : Result :=
  .next (s.guardAccess (encode (.load x)) s.base (blockLength x)
    (s.loadRegs s.base (regsUpTo x)).advance)

end Sys2Proof.Machine
end

