-- ==== Sys2Proof/Machine/ControlFlow.lean ====
section
/-! DEFINITION. The control-flow instructions (40_control_flow R100 to R108). No control-flow instruction writes a
general register; targets have no alignment (R110). -/

namespace Sys2Proof.Machine

/-- `00E0` CLS (R100): every cell unlit. -/
def execCls (s : State) : Result := .next (s.setFb blankFramebuffer).advance

/-- `00EE` RET (R101): pop, or `StackUnderflow(0)` when the stack is empty. -/
def execRet (s : State) : Result :=
  match s.stack with
  | [] => .next (s.raise .stackUnderflow (encode .ret) 0)
  | top :: rest => .next ((s.setStack rest).setPc top)

/-- `1NNN` JP (R102). -/
def execJp (nnn : Addr12) (s : State) : Result := .next (s.setPc (zextAddr nnn))

/-- `2NNN` CALL (R103): push `pc0 + 2` and jump, or `StackOverflow(pc0 + 2)` when the stack is full. -/
def execCall (nnn : Addr12) (s : State) : Result :=
  if s.stackFull then .next (s.raise .stackOverflow (encode (.call nnn)) s.returnAddr.toNat)
  else .next ((s.setStack (s.returnAddr :: s.stack)).setPc (zextAddr nnn))

/-- `3XNN` SE Vx, NN (R104). -/
def execSeImm (x : RegIdx) (nn : Byte) (s : State) : Result := .next (s.skipIf (s.getV x == nn))

/-- `4XNN` SNE Vx, NN (R105). -/
def execSneImm (x : RegIdx) (nn : Byte) (s : State) : Result := .next (s.skipIf (s.getV x != nn))

/-- `5XY0` SE Vx, Vy (R106). -/
def execSeReg (x y : RegIdx) (s : State) : Result := .next (s.skipIf (s.getV x == s.getV y))

/-- `9XY0` SNE Vx, Vy (R107). -/
def execSneReg (x y : RegIdx) (s : State) : Result := .next (s.skipIf (s.getV x != s.getV y))

/-- `BNNN` JP V0, NNN (R108). -/
def execJpV0 (nnn : Addr12) (s : State) : Result := .next (s.setPc (indirectTarget s nnn))

end Sys2Proof.Machine
end

