-- ==== Sys2Proof/Machine/Draw.lean ====
section
/-! DEFINITION. Sprite draw and collision (44_draw R155 to R158): the two loops of R157, cell by cell. -/

namespace Sys2Proof.Machine

/-- The framebuffer so far and whether a collision has been recorded. -/
structure DrawState where
  fb : Framebuffer
  collided : Bool
  deriving DecidableEq, Repr

/-- Pixel `dx` of a sprite row, most significant bit first: `row[7 - dx]` (R156). -/
def spriteBit (row : Byte) (dx : Nat) : Bool := row.getLsbD (7 - dx)

/-- The inner body of R157: XOR one pixel into cell `((y + dy) mod 32, (x + dx) mod 64)`, and record a collision
exactly on a 1-to-0 transition (R158). -/
def drawBit (x y : Nat) (row : Byte) (dy : Nat) (d : DrawState) (dx : Nat) : DrawState :=
  let cx := wrapX (x + dx)
  let cy := wrapY (y + dy)
  let old := d.fb.cell cy cx
  let new := old ^^ spriteBit row dx
  { fb := d.fb.setCell cy cx new, collided := d.collided || (old && !new) }

/-- The inner loop of R157: the 8 pixels of row `dy`. -/
def drawRow (x y : Nat) (row : Byte) (dy : Nat) (d : DrawState) : DrawState :=
  (List.range 8).foldl (drawBit x y row dy) d

/-- The outer loop of R157, from row `dy` on. -/
def drawRows (x y : Nat) : List Byte → Nat → DrawState → DrawState
  | [], _, d => d
  | row :: rest, dy, d => drawRows x y rest (dy + 1) (drawRow x y row dy d)

/-- `draw(x, y, rows)` of R157 on a framebuffer. -/
def drawSprite (fb : Framebuffer) (x y : Nat) (rows : List Byte) : DrawState :=
  drawRows x y rows 0 { fb := fb, collided := false }

/-- The framebuffer and VF after a draw. -/
def State.setDrawn (s : State) (d : DrawState) : State := (s.setFb d.fb).setFlag d.collided

/-- `DXYN` DRW Vx, Vy, N (R155): the coordinates are read before VF is written; the whole sprite is checked before
anything changes; VF is always written. -/
def execDrw (x y : RegIdx) (n : Nibble) (s : State) : Result :=
  .next (s.guardAccess (encode (.drw x y n)) s.base n.toNat
    (s.setDrawn (drawSprite s.fb (s.getV x).toNat (s.getV y).toNat (s.readBytes s.base n.toNat))).advance)

end Sys2Proof.Machine
end

