-- ==== Sys2Proof/Machine/Keypad.lean ====
section
/-! DEFINITION. The keypad instructions (45_keypad R170 to R173). The CPU reads keys and never writes them. -/

namespace Sys2Proof.Machine

/-- `EX9E` SKP Vx (R170): skip if the key numbered `V[X]` is pressed, or `OperandOutOfRange(V[X])` above 15. -/
def execSkp (x : RegIdx) (s : State) : Result :=
  .next (s.guardDigit (encode (.skp x)) (s.getV x) (s.skipIf (s.key (keyOfByte (s.getV x)))))

/-- `EXA1` SKNP Vx (R171): skip if the key numbered `V[X]` is not pressed, or `OperandOutOfRange(V[X])` above 15. -/
def execSknp (x : RegIdx) (s : State) : Result :=
  .next (s.guardDigit (encode (.sknp x)) (s.getV x) (s.skipIf (!s.key (keyOfByte (s.getV x)))))

/-- `FX0A` LD Vx, K (R172): with no key pressed `npc` is `pc0` and nothing else changes; else the lowest pressed key
goes to `V[X]` and pc advances in the same tick (90_conflicts C5). -/
def execLdVxK (x : RegIdx) (s : State) : Result :=
  match s.currentKey with
  | none => .next (s.setPc s.pc)
  | some k => .next (s.setV x (byteOfKey k)).advance

end Sys2Proof.Machine
end

