-- ==== Sys2Proof/Machine/Random.lean ====
section
/-! DEFINITION. The random instruction (43_random R150, R151). -/

namespace Sys2Proof.Machine

/-- `CXNN` RND Vx, NN (R150): the byte on `rand_in`, sampled once, AND `NN`. The byte is the free value
`Config.randIn` (R151; assumption 4). -/
def execRnd (x : RegIdx) (nn : Byte) (s : State) : Result :=
  .next (s.countDraw.setV x (Config.randIn s.draws &&& nn)).advance

end Sys2Proof.Machine
end

