-- ==== Sys2Proof/Machine/RegisterOps.lean ====
section
/-! DEFINITION. The register operations (41_register_ops R120 to R130). All advance pc by 2, raise no fault, and touch
nothing but `V[X]` and, where stated, VF; sources are read before anything is written (10_state R22). -/

namespace Sys2Proof.Machine

/-- `V[X] <- result` and the default advance: an operation without a flag. -/
def State.finishV (s : State) (x : RegIdx) (result : Byte) : State := (s.setV x result).advance

/-- `V[X] <- result`, `VF <- flag` and the default advance: an operation with a flag (R137). -/
def State.finishFlag (s : State) (x : RegIdx) (result : Byte) (flag : Bool) : State :=
  (s.setResultFlag x result flag).advance

/-- `6XNN` LD Vx, NN (R120). -/
def execLdImm (x : RegIdx) (nn : Byte) (s : State) : Result := .next (s.finishV x nn)

/-- `7XNN` ADD Vx, NN (R121): modulo 256, no flag (90_conflicts C1). -/
def execAddImm (x : RegIdx) (nn : Byte) (s : State) : Result := .next (s.finishV x (addBytes (s.getV x) nn))

/-- `8XY0` LD Vx, Vy (R122). -/
def execLdReg (x y : RegIdx) (s : State) : Result := .next (s.finishV x (s.getV y))

/-- `8XY1` OR Vx, Vy (R123): no flag. -/
def execOrReg (x y : RegIdx) (s : State) : Result := .next (s.finishV x (s.getV x ||| s.getV y))

/-- `8XY2` AND Vx, Vy (R124): no flag. -/
def execAndReg (x y : RegIdx) (s : State) : Result := .next (s.finishV x (s.getV x &&& s.getV y))

/-- `8XY3` XOR Vx, Vy (R125): no flag. -/
def execXorReg (x y : RegIdx) (s : State) : Result := .next (s.finishV x (s.getV x ^^^ s.getV y))

/-- `8XY4` ADD Vx, Vy (R126): VF is the carry. -/
def execAddReg (x y : RegIdx) (s : State) : Result :=
  .next (s.finishFlag x (addBytes (s.getV x) (s.getV y)) (carryOut (s.getV x) (s.getV y)))

/-- `8XY5` SUB Vx, Vy (R127): minuend `V[X]`, VF is no-borrow. -/
def execSubReg (x y : RegIdx) (s : State) : Result :=
  .next (s.finishFlag x (subBytes (s.getV x) (s.getV y)) (noBorrow (s.getV x) (s.getV y)))

/-- `8XY6` SHR Vx (R128): in place on `V[X]`, `Y` ignored, VF is the old bit 0. -/
def execShr (x _y : RegIdx) (s : State) : Result :=
  .next (s.finishFlag x (halve (s.getV x)) (shiftedOutLow (s.getV x)))

/-- `8XY7` SUBN Vx, Vy (R129): minuend `V[Y]`, VF is no-borrow. -/
def execSubnReg (x y : RegIdx) (s : State) : Result :=
  .next (s.finishFlag x (subBytes (s.getV y) (s.getV x)) (noBorrow (s.getV y) (s.getV x)))

/-- `8XYE` SHL Vx (R130): in place on `V[X]`, `Y` ignored, VF is the old bit 7. -/
def execShl (x _y : RegIdx) (s : State) : Result :=
  .next (s.finishFlag x (double (s.getV x)) (shiftedOutHigh (s.getV x)))

end Sys2Proof.Machine
end

