-- ==== Sys2Proof/Machine/Timer.lean ====
section
/-! DEFINITION. The timer instructions (46_timer R180, R181). -/

namespace Sys2Proof.Machine

/-- `FX07` LD Vx, DT (R180). -/
def execLdVxDT (x : RegIdx) (s : State) : Result := .next (s.setV x s.dt).advance

/-- `FX15` LD DT, Vx (R181). -/
def execLdDTVx (x : RegIdx) (s : State) : Result := .next (s.setDt (s.getV x)).advance

end Sys2Proof.Machine
end

