-- ==== Sys2Proof/Machine/Fetch.lean ====
section
/-! DEFINITION. Fetching an instruction (30_encoding R75) and placing one where the next tick fetches it. -/

namespace Sys2Proof.Machine

/-- A fetch at `pc0` reaches above 0xFFF: `pc0 + 1 > 0xFFF`, a natural number, not reduced (R75, 20_memory R50). -/
def fetchFaults (pc0 : Word) : Bool := decide (0xFFF < pc0.toNat + 1)

/-- The two bytes at `pc0` and `pc0 + 1` (R75). -/
def State.fetchBytes (s : State) : List Byte := [s.readByte s.pc.toNat, s.readByte (s.pc.toNat + 1)]

/-- The opcode at pc, big-endian (R75, 20_memory R51). -/
def State.fetchWord (s : State) : Word := wordOfBytes (s.readByte s.pc.toNat) (s.readByte (s.pc.toNat + 1))

/-- A state whose very next step is a tick that fetches: no event of the host stands before it, the machine is not
halted, and pc is where two bytes exist. From a state that is so already, as reset is, nothing changes. -/
def State.readyToFetch (s : State) : State :=
  { s with
    schedule := []
    runState := .running
    fault := if s.runState = .halted then FaultRecord.zero else s.fault
    pc := if fetchFaults s.pc then 0x0200 else s.pc }

/-- A word stored at pc, the high byte first (20_memory R51). -/
def State.storeAtPc (s : State) (w : Word) : State :=
  (s.writeByte s.pc.toNat (hiByte w)).writeByte (s.pc.toNat + 1) (loByte w)

/-- A word placed where the next step fetches its instruction; it stands for the load of a program (assumption 18). -/
def State.placeWord (s : State) (w : Word) : State := s.readyToFetch.storeAtPc w

end Sys2Proof.Machine
end

