-- ==== Sys2Proof/Machine/Tick.lean ====
section
/-! DEFINITION. The events of the core: one tick (30_encoding R75, R76), the timer decrement (60_exceptions R220), the
key change (R222), the load port and reset (70_reset_and_hazards R240, R245), and their order (R226). -/

namespace Sys2Proof.Machine

/-- Fetch, decode and execute on a running machine, with the checks in the order of 60_exceptions R207: fetch bounds,
decode, the instruction's own. The load port is closed from now on (70 R248). -/
def runTick (s : State) : Result :=
  if fetchFaults s.pc then .next (s.raise .addressOutOfRange 0 (s.pc.toNat + 1))
  else
    match decode s.fetchBytes with
    | .ok (i, _) => exec i s
    | .error _ => .next (s.raise .unsupportedOpcode s.fetchWord s.fetchWord.toNat)

/-- `tick()` of 30_encoding R76: a halted machine does nothing (10_state R42, 60_exceptions R206). -/
def tick (s : State) : Result :=
  match s.runState with
  | .halted => .next s
  | .running => runTick s.closeLoad

/-- `timer_dec()` (60_exceptions R220): clamped at zero, whatever `RunState` is (R227). -/
def State.timerDec (s : State) : State := if s.dt = 0 then s else s.setDt (s.dt - 1)

/-- The `reset` event (70_reset_and_hazards R240): every piece of the spec's state at its reset value. The parameters,
the host's coming events and the count of random samples are not the spec's state and stay (assumption 9). -/
def State.resetEvent (s : State) : State :=
  { State.reset with config := s.config, draws := s.draws, schedule := s.schedule }

/-- One event of the host (60_exceptions R226). -/
def applyEvent (e : HostEvent) (s : State) : Result :=
  match e with
  | .reset => .next s.resetEvent
  | .load addr byte => if s.loadOpen then .next (s.writeByte addr.toNat byte) else .refused .loadAfterFirstTick
  | .tick => tick s
  | .timerDec => .next s.timerDec
  | .keyChange key pressed => .next (s.setKey key pressed)

/-- The host's coming events replaced. -/
def State.setSchedule (s : State) (es : List HostEvent) : State := { s with schedule := es }

/-- The next event of the host: the first of its schedule, and a tick when the schedule is empty (assumption 5). -/
def nextEvent (s : State) : Result :=
  match s.schedule with
  | [] => tick s
  | e :: rest => applyEvent e (s.setSchedule rest)

/-- The load events that place bytes from an address on, ascending. The `load` port's address is 12 bits (00_scope R9),
so an address above 0xFFF would wrap modulo 4096; `loadImage` asks for none (assumption 22). -/
def loadImageFrom (addr : Nat) : List Byte → List HostEvent
  | [] => []
  | b :: rest => .load (BitVec.ofNat 12 addr) b :: loadImageFrom (addr + 1) rest

/-- The load events of a program image (70_reset_and_hazards R245): byte `j` at `0x200 + j`. DESIGN CHOICE, safe: an
image longer than 3584 bytes, which the host refuses before any tick (R246; 93_implementation_defined U20), gives no
load event at all (assumption 22). -/
def loadImage (image : List Byte) : List HostEvent :=
  if imageFits image.length then loadImageFrom progBase image else []

end Sys2Proof.Machine
end

