-- ==== Sys2Proof/Machine/Step.lean ====
section
/-! DEFINITION. One step of the machine: the next event of the host (Machine/Tick.lean). -/

namespace Sys2Proof.Machine

/-- One step: one whole event (00_scope R9, 60_exceptions R226), a tick unless the schedule holds another. -/
def step (s : State) : Host.Outcome State Fault Refusal := nextEvent s

/-- The state with an instruction word of the opcode table placed where the next step fetches it. -/
def State.withFetchWord (s : State) (nbits w : Nat) : State := s.placeWord (tableWord nbits w)

end Sys2Proof.Machine
end

