-- ==== Sys2Proof/Safety.lean ====
section
/-! DEFINITION. The terms claims are stated in: what a reader can look at in a state, what a step leaves alone, what
taking a fault leaves, which states a run can reach, and what a sprite covers. -/

namespace Sys2Proof.Machine

/-- One thing a reader can look at in a state: a register, a key, a cell, a byte of memory, or a whole field. -/
inductive Piece where
  | v (r : RegIdx)
  | pc
  | index
  | stack
  | dt
  | key (k : KeyIdx)
  | cell (y : Fin fbHeight) (x : Fin fbWidth)
  | byte (a : Nat)
  | runState
  | fault
  | config
  | loadOpen
  | draws
  | schedule
  deriving DecidableEq, Repr

/-- The piece reads the same in both states. -/
def Same (s t : State) : Piece → Prop
  | .v r => t.getV r = s.getV r
  | .pc => t.pc = s.pc
  | .index => t.index = s.index
  | .stack => t.stack = s.stack
  | .dt => t.dt = s.dt
  | .key k => t.key k = s.key k
  | .cell y x => t.cell y x = s.cell y x
  | .byte a => t.readByte a = s.readByte a
  | .runState => t.runState = s.runState
  | .fault => t.fault = s.fault
  | .config => t.config = s.config
  | .loadOpen => t.loadOpen = s.loadOpen
  | .draws => t.draws = s.draws
  | .schedule => t.schedule = s.schedule

/-- FRAME: from `s` to `t`, nothing has changed but pieces that `may` names. -/
def OnlyChanges (may : Piece → Prop) (s t : State) : Prop := ∀ p, ¬ may p → Same s t p

/-- The pieces of a list, as what a frame may change. -/
def among (ps : List Piece) (p : Piece) : Prop := p ∈ ps

/-- What taking a fault leaves (60_exceptions R205): the record, `RunState` Halted, and nothing else changed. -/
structure TookFault (s : State) (cause : FaultCause) (op : Word) (info : Nat) (t : State) : Prop where
  halted : t.runState = .halted
  cause : t.fault.cause = cause
  pc : t.fault.pc = s.pc
  opcode : t.fault.opcode = op
  info : t.fault.info.toNat = info
  rest : OnlyChanges (among [.runState, .fault]) s t

/-- The values reset puts every state element at (10_state R46, 70_reset_and_hazards R240). -/
structure ResetValues (t : State) : Prop where
  pc : t.pc = 0x0200
  regs : ∀ r, t.getV r = 0
  index : t.index = 0
  sp : t.sp = 0
  dt : t.dt = 0
  keys : ∀ k, t.key k = false
  cells : ∀ y x, t.cell y x = false
  running : t.runState = .running
  noFault : t.fault = FaultRecord.zero
  font : ∀ j : Fin 80, t.readByte (t.config.fontBase.val + j.val) = t.config.fontData[j.val]
  otherBytes : ∀ a, a ≤ 0xFFF → a < t.config.fontBase.val ∨ t.config.fontBase.val + 80 ≤ a → t.readByte a = 0

/-- Instruction `i` completes with a result in `V[X]` and a flag in VF, the flag written last (10_state R22,
41_register_ops R137). -/
def WritesResultThenFlag (i : Instr) (x : RegIdx) (result : Nat) (flag : Prop) (s : State) : Prop :=
  ∃ t, exec i s = .next t ∧
    (x ≠ 15 → (t.getV x).toNat = result) ∧
    (flag → t.getV 15 = 1) ∧ (¬ flag → t.getV 15 = 0) ∧
    t.pc = s.pc + 2 ∧
    OnlyChanges (among [.pc, .v x, .v 15]) s t

/-- The sprite of `n` bytes at `Mem[I..]`, placed with its corner at column `x0` and row `y0`, has a 1 bit on cell
`(cy, cx)`: row `dy` is byte `Mem[I + dy]`, pixel `dx` its bit `7 - dx`, both coordinates wrapped (44_draw R156,
R157, R159). -/
def spriteCovers (s : State) (x0 y0 n : Nat) (cy : Fin fbHeight) (cx : Fin fbWidth) : Bool :=
  (List.range n).any fun dy => (List.range 8).any fun dx =>
    (y0 + dy) % 32 == cy.val && (x0 + dx) % 64 == cx.val && (s.readByte (s.index.toNat + dy)).getLsbD (7 - dx)

end Sys2Proof.Machine

namespace Sys2Proof

/-- An instruction whose tick can end in a fault of its own (60_exceptions R207, R208). -/
def Instr.mayFault : Instr → Bool
  | .ret | .call _ | .drw _ _ _ | .skp _ | .sknp _ | .ldF _ | .ldB _ | .dump _ | .load _ => true
  | .cls | .jp _ | .seImm _ _ | .sneImm _ _ | .seReg _ _ | .ldImm _ _ | .addImm _ _ | .ldReg _ _ | .orReg _ _
  | .andReg _ _ | .xorReg _ _ | .addReg _ _ | .subReg _ _ | .shr _ _ | .subnReg _ _ | .shl _ _ | .sneReg _ _
  | .ldI _ | .jpV0 _ | .rnd _ _ | .ldVxDT _ | .ldVxK _ | .ldDTVx _ | .addI _ => false

/-- The six instructions that write VF as a flag (10_state R21). -/
def Instr.writesFlag : Instr → Bool
  | .addReg _ _ | .subReg _ _ | .shr _ _ | .subnReg _ _ | .shl _ _ | .drw _ _ _ => true
  | .cls | .ret | .jp _ | .call _ | .seImm _ _ | .sneImm _ _ | .seReg _ _ | .ldImm _ _ | .addImm _ _ | .ldReg _ _
  | .orReg _ _ | .andReg _ _ | .xorReg _ _ | .sneReg _ _ | .ldI _ | .jpV0 _ | .rnd _ _ | .skp _ | .sknp _
  | .ldVxDT _ | .ldVxK _ | .ldDTVx _ | .addI _ | .ldF _ | .ldB _ | .dump _ | .load _ => false

/-- The register `X` an instruction writes as its ordinary destination; for `FX65` the last one it writes
(10_state R21). -/
def Instr.destination : Instr → Option RegIdx
  | .ldImm x _ | .addImm x _ | .ldReg x _ | .orReg x _ | .andReg x _ | .xorReg x _ | .addReg x _ | .subReg x _
  | .shr x _ | .subnReg x _ | .shl x _ | .rnd x _ | .ldVxDT x | .ldVxK x | .load x => some x
  | .cls | .ret | .jp _ | .call _ | .seImm _ _ | .sneImm _ _ | .seReg _ _ | .sneReg _ _ | .ldI _ | .jpV0 _
  | .drw _ _ _ | .skp _ | .sknp _ | .ldDTVx _ | .addI _ | .ldF _ | .ldB _ | .dump _ => none

end Sys2Proof

namespace Sys2Proof.Machine

/-- A return address a call can have pushed (10_state R28): 0x0002 to 0x1000. -/
def returnAddrLegal (w : Word) : Prop := 2 ≤ w.toNat ∧ w.toNat ≤ 0x1000

/-- INVARIANT: what holds of every state a run can reach. -/
structure StateInv (s : State) : Prop where
  /-- The parameters meet 00_scope R8. -/
  configWf : s.config.wf = true
  /-- Memory is in its canonical form, so no address above 0xFFF is held (20_memory R50). -/
  memWf : Memory.wf (resetByte s.config) s.mem
  /-- `SP ≤ STACK_DEPTH` (10_state R27). -/
  stackBound : s.sp ≤ s.config.stackDepth
  /-- Every live stack entry is a return address (10_state R28). -/
  stackLegal : ∀ w ∈ s.stack, returnAddrLegal w
  /-- The largest pc any instruction writes is 0x10FE (10_state R25). -/
  pcBound : s.pc.toNat ≤ 0x10FE
  /-- The fault record is all zero while Running (10_state R43). -/
  faultZero : s.runState = .running → s.fault = FaultRecord.zero
  /-- A halted machine has a cause, its pc is that of the faulting tick (60_exceptions R205), and a tick has closed
  the load port (70_reset_and_hazards R248). -/
  faultSet : s.runState = .halted → s.fault.cause ≠ .noFault ∧ s.fault.pc = s.pc ∧ s.loadOpen = false

/-- A safe run is one in which no fault is taken: the machine is still Running (10_state R42). -/
def Safe (s : State) : Prop := s.runState = .running

/-- A program has FINISHED (70_reset_and_hazards R250): the CPU stands, Running, on a `1NNN` that jumps to itself. -/
def Finished (s : State) : Prop :=
  Safe s ∧ s.pc.toNat ≤ 0xFFE ∧
    (s.readByte s.pc.toNat).toNat * 256 + (s.readByte (s.pc.toNat + 1)).toNat = 0x1000 + s.pc.toNat

/-- The fault an executed instruction raises on its own, with its info, or none (60_exceptions R200, R202 to R204). -/
def ownFault (s : State) : Instr → Option (FaultCause × Nat)
  | .ret => if s.sp = 0 then some (.stackUnderflow, 0) else none
  | .call _ => if s.sp = s.config.stackDepth then some (.stackOverflow, (s.pc + 2).toNat) else none
  | .skp x | .sknp x | .ldF x =>
    if 15 < (s.getV x).toNat then some (.operandOutOfRange, (s.getV x).toNat) else none
  | .drw _ _ n =>
    if 0 < n.toNat ∧ 0xFFF < s.index.toNat + n.toNat - 1 then some (.addressOutOfRange, s.index.toNat + n.toNat - 1)
    else none
  | .ldB _ => if 0xFFF < s.index.toNat + 2 then some (.addressOutOfRange, s.index.toNat + 2) else none
  | .dump x | .load x =>
    if 0xFFF < s.index.toNat + x.val then some (.addressOutOfRange, s.index.toNat + x.val) else none
  | .cls | .jp _ | .seImm _ _ | .sneImm _ _ | .seReg _ _ | .ldImm _ _ | .addImm _ _ | .ldReg _ _ | .orReg _ _
  | .andReg _ _ | .xorReg _ _ | .addReg _ _ | .subReg _ _ | .shr _ _ | .subnReg _ _ | .shl _ _ | .sneReg _ _
  | .ldI _ | .jpV0 _ | .rnd _ _ | .ldVxDT _ | .ldVxK _ | .ldDTVx _ | .addI _ => none

/-- The fault a tick raises, with its info, or none, in the order of the checks: fetch bounds, decode, the
instruction's own (60_exceptions R200 to R204, R207). -/
def tickFault (s : State) : Option (FaultCause × Nat) :=
  if 0xFFF < s.pc.toNat + 1 then some (.addressOutOfRange, s.pc.toNat + 1)
  else
    match decodeWord s.fetchWord with
    | .ok i => ownFault s i
    | .error _ => some (.unsupportedOpcode, s.fetchWord.toNat)

/-- The events of a list applied one after the other, up to the first that stops (60_exceptions R226). -/
def applyEvents : List HostEvent → State → Result
  | [], s => .next s
  | e :: rest, s =>
    match applyEvent e s with
    | .next t => applyEvents rest t
    | .fault r => .fault r
    | .refused r => .refused r

/-- An answer with its next state, if it has one, changed by `f`. -/
def mapNext (f : State → State) : Result → Result
  | .next t => .next (f t)
  | .fault r => .fault r
  | .refused r => .refused r

end Sys2Proof.Machine
end

