-- ==== Sys2Proof/Certificates/Slice0/Obligations.lean ====
section
/-! DEFINITION. The statements for the provers, one `def Obligations.<Name> : Prop` each, from the numbered rules of
spec/. Each docstring says which rule or section of the spec it formalises. Every statement about an instruction's
effect is also its completion (`exec` answers a next state) and its frame (`OnlyChanges`). -/

open Sys2Proof Sys2Proof.Machine

/-! ### Control flow (40_control_flow) -/

/-- R100: `00E0` makes every cell 0; VF, registers, I, memory, timer and stack are untouched. -/
def Obligations.ClearScreenBlanksTheGrid : Prop :=
  ∀ s : State, ∃ t, exec .cls s = .next t ∧
    (∀ y x, t.cell y x = false) ∧ t.pc = s.pc + 2 ∧
    OnlyChanges (fun p => p = .pc ∨ ∃ y x, p = .cell y x) s t

/-- R101: `00EE` pops the most recent entry into pc, or raises `StackUnderflow(0)` on an empty stack. -/
def Obligations.ReturnPopsTheStack : Prop :=
  ∀ s : State,
    (∀ top rest, s.stack = top :: rest → ∃ t, exec .ret s = .next t ∧
      t.pc = top ∧ t.stack = rest ∧ OnlyChanges (among [.pc, .stack]) s t) ∧
    (s.stack = [] → ∃ t, exec .ret s = .next t ∧ TookFault s .stackUnderflow 0x00EE 0 t)

/-- R102: `1NNN` puts the zero-extended `NNN` into pc. -/
def Obligations.JumpSetsPc : Prop :=
  ∀ (nnn : Addr12) (s : State), ∃ t, exec (.jp nnn) s = .next t ∧
    t.pc.toNat = nnn.toNat ∧ OnlyChanges (among [.pc]) s t

/-- R103: `2NNN` pushes `pc0 + 2` and jumps, or raises `StackOverflow(pc0 + 2)` when `SP = STACK_DEPTH`. -/
def Obligations.CallPushesTheReturnAddress : Prop :=
  ∀ (nnn : Addr12) (s : State),
    (s.sp < s.config.stackDepth → ∃ t, exec (.call nnn) s = .next t ∧
      t.stack = (s.pc + 2) :: s.stack ∧ t.pc.toNat = nnn.toNat ∧ OnlyChanges (among [.pc, .stack]) s t) ∧
    (s.sp = s.config.stackDepth → ∃ t, exec (.call nnn) s = .next t ∧
      TookFault s .stackOverflow (encode (.call nnn)) (s.pc + 2).toNat t)

/-- R104 to R107: the four skips that compare registers put `pc0 + 4` into pc if the condition holds, else `pc0 + 2`,
and change nothing else. -/
def Obligations.SkipsCompareAndAdvance : Prop :=
  ∀ (x y : RegIdx) (nn : Byte) (s : State),
    (∃ t, exec (.seImm x nn) s = .next t ∧
      t.pc = (if s.getV x = nn then s.pc + 4 else s.pc + 2) ∧ OnlyChanges (among [.pc]) s t) ∧
    (∃ t, exec (.sneImm x nn) s = .next t ∧
      t.pc = (if s.getV x ≠ nn then s.pc + 4 else s.pc + 2) ∧ OnlyChanges (among [.pc]) s t) ∧
    (∃ t, exec (.seReg x y) s = .next t ∧
      t.pc = (if s.getV x = s.getV y then s.pc + 4 else s.pc + 2) ∧ OnlyChanges (among [.pc]) s t) ∧
    (∃ t, exec (.sneReg x y) s = .next t ∧
      t.pc = (if s.getV x ≠ s.getV y then s.pc + 4 else s.pc + 2) ∧ OnlyChanges (among [.pc]) s t)

/-- R108: `BNNN` puts `NNN + V[0]` into pc, not reduced modulo 4096. -/
def Obligations.IndirectJumpIsNotReduced : Prop :=
  ∀ (nnn : Addr12) (s : State), ∃ t, exec (.jpV0 nnn) s = .next t ∧
    t.pc.toNat = nnn.toNat + (s.getV 0).toNat ∧ OnlyChanges (among [.pc]) s t

/-- 40_control_flow, the call and return law (R111, which the spec derives from R101 and R103): a call whose target
holds `00EE`, followed by a second tick, leaves pc at `pc0 + 2`, SP at its old value and nothing else changed but the
load port, which a first tick closes (the model's own field, log entry 6). Both steps are ticks because the schedule
is empty (log entry 5). -/
def Obligations.CallThenReturnComesBack : Prop :=
  ∀ (nnn : Addr12) (s : State), s.runState = .running → s.schedule = [] → s.pc.toNat ≤ 0xFFE → nnn.toNat ≤ 0xFFE →
    s.sp < s.config.stackDepth →
    s.readByte s.pc.toNat ++ s.readByte (s.pc.toNat + 1) = encode (.call nnn) →
    s.readByte nnn.toNat = 0x00 → s.readByte (nnn.toNat + 1) = 0xEE →
    ∃ t u, step s = .next t ∧ step t = .next u ∧ u.pc = s.pc + 2 ∧ u.sp = s.sp ∧
      OnlyChanges (among [.pc, .loadOpen]) s u

/-! ### Register operations (41_register_ops) -/

/-- R120, R121, R122: load immediate, add immediate (modulo 256, no flag) and copy. -/
def Obligations.LoadAddCopyWriteOneRegister : Prop :=
  ∀ (x y : RegIdx) (nn : Byte) (s : State),
    (∃ t, exec (.ldImm x nn) s = .next t ∧
      t.getV x = nn ∧ t.pc = s.pc + 2 ∧ OnlyChanges (among [.pc, .v x]) s t) ∧
    (∃ t, exec (.addImm x nn) s = .next t ∧
      (t.getV x).toNat = ((s.getV x).toNat + nn.toNat) % 256 ∧ t.pc = s.pc + 2 ∧
      OnlyChanges (among [.pc, .v x]) s t) ∧
    (∃ t, exec (.ldReg x y) s = .next t ∧
      t.getV x = s.getV y ∧ t.pc = s.pc + 2 ∧ OnlyChanges (among [.pc, .v x]) s t)

/-- R123, R124, R125: OR, AND and XOR act bit by bit and write no flag. -/
def Obligations.LogicActsBitByBit : Prop :=
  ∀ (x y : RegIdx) (s : State),
    (∃ t, exec (.orReg x y) s = .next t ∧
      (∀ b, (t.getV x).getLsbD b = ((s.getV x).getLsbD b || (s.getV y).getLsbD b)) ∧ t.pc = s.pc + 2 ∧
      OnlyChanges (among [.pc, .v x]) s t) ∧
    (∃ t, exec (.andReg x y) s = .next t ∧
      (∀ b, (t.getV x).getLsbD b = ((s.getV x).getLsbD b && (s.getV y).getLsbD b)) ∧ t.pc = s.pc + 2 ∧
      OnlyChanges (among [.pc, .v x]) s t) ∧
    (∃ t, exec (.xorReg x y) s = .next t ∧
      (∀ b, (t.getV x).getLsbD b = ((s.getV x).getLsbD b ^^ (s.getV y).getLsbD b)) ∧ t.pc = s.pc + 2 ∧
      OnlyChanges (among [.pc, .v x]) s t)

/-- R126: `8XY4` stores the sum modulo 256 and writes VF last with the carry. -/
def Obligations.AddWritesSumThenCarry : Prop :=
  ∀ (x y : RegIdx) (s : State),
    WritesResultThenFlag (.addReg x y) x
      (((s.getV x).toNat + (s.getV y).toNat) % 256) (255 < (s.getV x).toNat + (s.getV y).toNat) s

/-- R127, R129: both subtracts store `(minuend - subtrahend) mod 256` and write VF last with 1 iff minuend ≥
subtrahend. -/
def Obligations.SubtractsWriteDifferenceThenNoBorrow : Prop :=
  ∀ (x y : RegIdx) (s : State),
    WritesResultThenFlag (.subReg x y) x
      (((s.getV x).toNat + 256 - (s.getV y).toNat) % 256) ((s.getV y).toNat ≤ (s.getV x).toNat) s ∧
    WritesResultThenFlag (.subnReg x y) x
      (((s.getV y).toNat + 256 - (s.getV x).toNat) % 256) ((s.getV x).toNat ≤ (s.getV y).toNat) s

/-- R128, R130: both shifts act in place on `V[X]` by one position, whatever `Y` is, and write VF last with the bit
shifted out. -/
def Obligations.ShiftsWriteResultThenBitShiftedOut : Prop :=
  ∀ (x y : RegIdx) (s : State),
    WritesResultThenFlag (.shr x y) x ((s.getV x).toNat / 2) ((s.getV x).toNat % 2 = 1) s ∧
    WritesResultThenFlag (.shl x y) x (2 * (s.getV x).toNat % 256) (128 ≤ (s.getV x).toNat) s

/-! ### Index register, random, draw (42_addressing, 43_random, 44_draw) -/

/-- R140, R141: `ANNN` sets I to the zero-extended `NNN`; `FX1E` adds `V[X]` modulo 65536 and writes no flag. -/
def Obligations.IndexLoadsAndWraps : Prop :=
  ∀ (nnn : Addr12) (x : RegIdx) (s : State),
    (∃ t, exec (.ldI nnn) s = .next t ∧
      t.index.toNat = nnn.toNat ∧ t.pc = s.pc + 2 ∧ OnlyChanges (among [.pc, .index]) s t) ∧
    (∃ t, exec (.addI x) s = .next t ∧
      t.index.toNat = (s.index.toNat + (s.getV x).toNat) % 65536 ∧ t.pc = s.pc + 2 ∧
      OnlyChanges (among [.pc, .index]) s t)

/-- R142: `FX29` sets I to `FONT_BASE + 5 * V[X]` for every value of the parameter, or raises
`OperandOutOfRange(V[X])` when `V[X] > 15`. -/
def Obligations.FontPointerOrOperandFault : Prop :=
  ∀ (x : RegIdx) (s : State),
    ((s.getV x).toNat ≤ 15 → ∃ t, exec (.ldF x) s = .next t ∧
      t.index.toNat = s.config.fontBase.val + 5 * (s.getV x).toNat ∧ t.pc = s.pc + 2 ∧
      OnlyChanges (among [.pc, .index]) s t) ∧
    (15 < (s.getV x).toNat → ∃ t, exec (.ldF x) s = .next t ∧
      TookFault s .operandOutOfRange (encode (.ldF x)) (s.getV x).toNat t)

/-- 43_random: `CXNN` stores the sampled byte AND `NN`, so no bit outside `NN` is set; one byte is sampled by each
`CXNN` and none by any other instruction. The byte is the model's free value `Config.randIn`, the same whatever it
is, and the count of samples is the model's own field (assumption log entry 4). -/
def Obligations.RandomByteIsSampledOnceAndMasked : Prop :=
  (∀ (x : RegIdx) (nn : Byte) (s : State), ∃ t, exec (.rnd x nn) s = .next t ∧
    t.getV x = Config.randIn s.draws &&& nn ∧ t.getV x &&& ~~~nn = 0 ∧ t.draws = s.draws + 1 ∧
    t.pc = s.pc + 2 ∧ OnlyChanges (among [.pc, .v x, .draws]) s t) ∧
  (∀ (i : Instr) (s t : State), (∀ x nn, i ≠ .rnd x nn) → exec i s = .next t → t.draws = s.draws)

/-- R155, R158: `DXYN` XORs the sprite, toroidally, into the framebuffer and writes VF with 1 iff some lit cell is
covered; or raises `AddressOutOfRange(I + N - 1)` with framebuffer and VF unchanged. (That the loops of R157 come to
one simultaneous update is 44_draw R159.) -/
def Obligations.DrawXorsTheSpriteAndFlagsCollision : Prop :=
  ∀ (x y : RegIdx) (n : Nibble) (s : State),
    (n.toNat = 0 ∨ s.index.toNat + n.toNat - 1 ≤ 0xFFF → ∃ t, exec (.drw x y n) s = .next t ∧
      (∀ cy cx, t.cell cy cx =
        (s.cell cy cx ^^ spriteCovers s (s.getV x).toNat (s.getV y).toNat n.toNat cy cx)) ∧
      ((∃ cy cx, s.cell cy cx = true ∧
          spriteCovers s (s.getV x).toNat (s.getV y).toNat n.toNat cy cx = true) → t.getV 15 = 1) ∧
      ((¬ ∃ cy cx, s.cell cy cx = true ∧
          spriteCovers s (s.getV x).toNat (s.getV y).toNat n.toNat cy cx = true) → t.getV 15 = 0) ∧
      t.pc = s.pc + 2 ∧ OnlyChanges (fun p => p = .pc ∨ p = .v 15 ∨ ∃ cy cx, p = .cell cy cx) s t) ∧
    (0 < n.toNat → 0xFFF < s.index.toNat + n.toNat - 1 → ∃ t, exec (.drw x y n) s = .next t ∧
      TookFault s .addressOutOfRange (encode (.drw x y n)) (s.index.toNat + n.toNat - 1) t)

/-- 44_draw, the involution law (R160, which the spec derives from R159): two draws of one sprite at one location
restore the framebuffer; the second reports a collision iff the sprite covers a cell that was unlit at first. -/
def Obligations.DrawTwiceRestoresTheGrid : Prop :=
  ∀ (x y : RegIdx) (n : Nibble) (s t : State), n.toNat = 0 ∨ s.index.toNat + n.toNat - 1 ≤ 0xFFF →
    exec (.drw x y n) s = .next t → t.getV x = s.getV x → t.getV y = s.getV y →
    ∃ u, exec (.drw x y n) t = .next u ∧ (∀ cy cx, u.cell cy cx = s.cell cy cx) ∧
      (u.getV 15 = 1 ↔ ∃ cy cx, s.cell cy cx = false ∧
        spriteCovers s (s.getV x).toNat (s.getV y).toNat n.toNat cy cx = true) ∧
      OnlyChanges (among [.pc, .v 15]) s u

/-- 44_draw, the edge law (R161, which the spec derives from R157): drawn at column 63 the pixels of a row fall in
columns 63, 0, 1, … 6; drawn at row 31 the sprite's rows fall in rows 31, 0, 1, …. -/
def Obligations.DrawWrapsAtTheEdges : Prop :=
  ∀ (x y : RegIdx) (n : Nibble) (s t : State) (dy dx : Nat), s.index.toNat + n.toNat - 1 ≤ 0xFFF →
    exec (.drw x y n) s = .next t → dy < n.toNat → dx < 8 →
    ((s.getV x).toNat = 63 → ∀ (cy : Fin fbHeight) (cx : Fin fbWidth), cy.val = ((s.getV y).toNat + dy) % 32 →
      cx.val = (if dx = 0 then 63 else dx - 1) →
      t.cell cy cx = (s.cell cy cx ^^ (s.readByte (s.index.toNat + dy)).getLsbD (7 - dx))) ∧
    ((s.getV y).toNat = 31 → ∀ (cy : Fin fbHeight) (cx : Fin fbWidth), cx.val = ((s.getV x).toNat + dx) % 64 →
      cy.val = (if dy = 0 then 31 else dy - 1) →
      t.cell cy cx = (s.cell cy cx ^^ (s.readByte (s.index.toNat + dy)).getLsbD (7 - dx)))

/-! ### Keypad, timer (45_keypad, 46_timer) -/

/-- R170, R171: `EX9E` and `EXA1` test the key numbered `V[X]`, or raise `OperandOutOfRange(V[X])` above 15. -/
def Obligations.KeySkipsTestOneSlot : Prop :=
  ∀ (x : RegIdx) (s : State),
    (∀ k : KeyIdx, (s.getV x).toNat = k.val →
      (∃ t, exec (.skp x) s = .next t ∧
        t.pc = (if s.key k = true then s.pc + 4 else s.pc + 2) ∧ OnlyChanges (among [.pc]) s t) ∧
      (∃ t, exec (.sknp x) s = .next t ∧
        t.pc = (if s.key k = false then s.pc + 4 else s.pc + 2) ∧ OnlyChanges (among [.pc]) s t)) ∧
    (15 < (s.getV x).toNat →
      (∃ t, exec (.skp x) s = .next t ∧
        TookFault s .operandOutOfRange (encode (.skp x)) (s.getV x).toNat t) ∧
      (∃ t, exec (.sknp x) s = .next t ∧
        TookFault s .operandOutOfRange (encode (.sknp x)) (s.getV x).toNat t))

/-- R172: `FX0A` with no key pressed changes nothing at all; with keys pressed it puts the lowest pressed index into
`V[X]` and advances in the same tick. -/
def Obligations.KeyWaitTakesTheLowestKey : Prop :=
  ∀ (x : RegIdx) (s : State),
    ((∀ k, s.key k = false) → ∃ t, exec (.ldVxK x) s = .next t ∧ OnlyChanges (among []) s t) ∧
    (∀ k : KeyIdx, s.key k = true → (∀ j, j < k → s.key j = false) → ∃ t, exec (.ldVxK x) s = .next t ∧
      (t.getV x).toNat = k.val ∧ t.pc = s.pc + 2 ∧ OnlyChanges (among [.pc, .v x]) s t)

/-- 45_keypad R173: a CPU that waits for a key with none pressed goes through identical ticks, however many, and stays
Running. The steps are ticks because the schedule is empty (log entry 5); only a tick that is the first closes the load
port (the model's own field, log entry 6), and from then on the state is the very same. -/
def Obligations.KeyWaitRepeatsWhileNoKeyIsPressed : Prop :=
  ∀ (x : RegIdx) (s : State) (k : Nat), s.runState = .running → s.schedule = [] →
    s.pc.toNat ≤ 0xFFE → s.readByte s.pc.toNat ++ s.readByte (s.pc.toNat + 1) = encode (.ldVxK x) →
    (∀ key, s.key key = false) → ∃ t, Host.Core.run core k s = .next t ∧ OnlyChanges (among [.loadOpen]) s t ∧
      (s.loadOpen = false → t = s)

/-- R180, R181: `FX07` copies DT into `V[X]` and leaves DT; `FX15` replaces DT by `V[X]`. -/
def Obligations.TimerIsReadAndSet : Prop :=
  ∀ (x : RegIdx) (s : State),
    (∃ t, exec (.ldVxDT x) s = .next t ∧
      t.getV x = s.dt ∧ t.pc = s.pc + 2 ∧ OnlyChanges (among [.pc, .v x]) s t) ∧
    (∃ t, exec (.ldDTVx x) s = .next t ∧
      t.dt = s.getV x ∧ t.pc = s.pc + 2 ∧ OnlyChanges (among [.pc, .dt]) s t)

/-! ### BCD and block transfer (47_bcd_block) -/

/-- R185: `FX33` stores the three decimal digits at `I`, `I + 1`, `I + 2`, or raises `AddressOutOfRange(I + 2)` and
writes no byte. -/
def Obligations.BcdStoresThreeDigits : Prop :=
  ∀ (x : RegIdx) (s : State),
    (s.index.toNat + 2 ≤ 0xFFF → ∃ t, exec (.ldB x) s = .next t ∧
      (t.readByte s.index.toNat).toNat = (s.getV x).toNat / 100 ∧
      (t.readByte (s.index.toNat + 1)).toNat = (s.getV x).toNat / 10 % 10 ∧
      (t.readByte (s.index.toNat + 2)).toNat = (s.getV x).toNat % 10 ∧ t.pc = s.pc + 2 ∧
      OnlyChanges (among [.pc, .byte s.index.toNat, .byte (s.index.toNat + 1), .byte (s.index.toNat + 2)]) s t) ∧
    (0xFFF < s.index.toNat + 2 → ∃ t, exec (.ldB x) s = .next t ∧
      TookFault s .addressOutOfRange (encode (.ldB x)) (s.index.toNat + 2) t)

/-- R186: `FX55` stores `V[0]` to `V[X]` at `I` to `I + X`, or raises `AddressOutOfRange(I + X)` and writes no byte. -/
def Obligations.DumpStoresTheRegisters : Prop :=
  ∀ (x : RegIdx) (s : State),
    (s.index.toNat + x.val ≤ 0xFFF → ∃ t, exec (.dump x) s = .next t ∧
      (∀ r : RegIdx, r ≤ x → t.readByte (s.index.toNat + r.val) = s.getV r) ∧ t.pc = s.pc + 2 ∧
      OnlyChanges (fun p => p = .pc ∨ ∃ r : RegIdx, r ≤ x ∧ p = .byte (s.index.toNat + r.val)) s t) ∧
    (0xFFF < s.index.toNat + x.val → ∃ t, exec (.dump x) s = .next t ∧
      TookFault s .addressOutOfRange (encode (.dump x)) (s.index.toNat + x.val) t)

/-- R187: `FX65` loads `V[0]` to `V[X]` from `I` to `I + X`, or raises `AddressOutOfRange(I + X)` and writes no
register. -/
def Obligations.LoadFillsTheRegisters : Prop :=
  ∀ (x : RegIdx) (s : State),
    (s.index.toNat + x.val ≤ 0xFFF → ∃ t, exec (.load x) s = .next t ∧
      (∀ r : RegIdx, r ≤ x → t.getV r = s.readByte (s.index.toNat + r.val)) ∧ t.pc = s.pc + 2 ∧
      OnlyChanges (fun p => p = .pc ∨ ∃ r : RegIdx, r ≤ x ∧ p = .v r) s t) ∧
    (0xFFF < s.index.toNat + x.val → ∃ t, exec (.load x) s = .next t ∧
      TookFault s .addressOutOfRange (encode (.load x)) (s.index.toNat + x.val) t)

/-- 47_bcd_block, the round trip (R188, which the spec derives from R186 and R187): dump then load leaves the
registers as they were, load then dump leaves memory as it was. -/
def Obligations.DumpAndLoadRoundTrip : Prop :=
  ∀ (x : RegIdx) (s : State), s.index.toNat + x.val ≤ 0xFFF →
    (∃ t u, exec (.dump x) s = .next t ∧ exec (.load x) t = .next u ∧ ∀ r, u.getV r = s.getV r) ∧
    (∃ t u, exec (.load x) s = .next t ∧ exec (.dump x) t = .next u ∧ ∀ a, u.readByte a = s.readByte a)

/-- 20_memory, coherence of fetch with stores (R61, which the spec derives from R56 and R59): the bytes a dump has
stored are the word that a fetch at their address reads next. -/
def Obligations.StoredBytesAreFetched : Prop :=
  ∀ (x : RegIdx) (s : State) (k : Nat) (lo hi : RegIdx), s.index.toNat + x.val ≤ 0xFFF → k + 1 ≤ x.val →
    hi.val = k → lo.val = k + 1 → ∃ t, exec (.dump x) s = .next t ∧
      ∀ pc, pc.toNat = s.index.toNat + k → (t.setPc pc).fetchWord = s.getV hi ++ s.getV lo

/-- 20_memory, memory as plain storage in one canonical form (the model's own representation, log entry 14): two
canonical memories that read alike at every address are the same list, so equal memories are equal data. -/
def Obligations.CanonicalMemoryIsDetermined : Prop :=
  ∀ (unlisted : Nat → Byte) (m n : Memory), Memory.wf unlisted m → Memory.wf unlisted n →
    (∀ a, m.read unlisted a = n.read unlisted a) → m = n

/-! ### The tick (30_encoding, 60_exceptions) -/

/-- 30_encoding R76, the execute step: a tick of a running machine, the event an empty schedule or a scheduled tick gives
(log entry 5), is `exec` of the instruction at pc, on the state itself but for the model's own fields (the load port
closed by the tick, log entry 6; the scheduled event taken off). -/
def Obligations.StepRunsTheDecodedInstruction : Prop :=
  ∀ (s : State) (i : Instr), s.runState = .running → s.pc.toNat + 1 ≤ 0xFFF →
    decode [s.readByte s.pc.toNat, s.readByte (s.pc.toNat + 1)] = .ok (i, []) →
    (s.schedule = [] → step s = exec i s.closeLoad) ∧
    (∀ rest, s.schedule = .tick :: rest → step s = exec i (s.setSchedule rest).closeLoad) ∧
    s.closeLoad.loadOpen = false ∧ OnlyChanges (among [.loadOpen]) s s.closeLoad

/-- 30_encoding, fetch (R75): a fetch at pc needs `pc + 1 ≤ 0xFFF`; otherwise the tick raises
`AddressOutOfRange(pc + 1)` with opcode 0. The word is big-endian and read from memory as it is, whatever the parity of
pc. That the step is a tick because the schedule is empty (log entry 5) and closes the load port (log entry 6) is the
model's choice. -/
def Obligations.FetchIsBoundsCheckedAndBigEndian : Prop :=
  ∀ s : State, s.runState = .running → s.schedule = [] →
    (0xFFF < s.pc.toNat + 1 → ∃ t, step s = .next t ∧
      TookFault s.closeLoad .addressOutOfRange 0 (s.pc.toNat + 1) t) ∧
    (s.pc.toNat + 1 ≤ 0xFFF →
      s.fetchWord.toNat = 256 * (s.readByte s.pc.toNat).toNat + (s.readByte (s.pc.toNat + 1)).toNat ∧
      ∀ i, decodeWord s.fetchWord = .ok i → step s = exec i s.closeLoad)

/-- 30_encoding, unmapped words (R86): executing a word that fits no row of the opcode map raises
`UnsupportedOpcode(op)` and halts. That the step is a tick because the schedule is empty (log entry 5) and closes the
load port (log entry 6) is the model's choice. -/
def Obligations.UnmappedWordHalts : Prop :=
  ∀ s : State, s.runState = .running → s.schedule = [] → s.pc.toNat + 1 ≤ 0xFFF →
    wordMapped s.fetchWord = false → ∃ t, step s = .next t ∧
      TookFault s.closeLoad .unsupportedOpcode s.fetchWord s.fetchWord.toNat t

/-- 30_encoding and 60_exceptions: every instruction, on every state, answers a next state; a fault is taken as the
next state that 60_exceptions describes (the model's choice between the two forms the spec allows, log entry 1). -/
def Obligations.EveryInstructionAnswersANextState : Prop :=
  ∀ (i : Instr) (s : State), ∃ t, exec i s = .next t

/-- 60_exceptions (R200 to R205, R207): a tick raises a fault exactly when one of the five conditions holds
(`tickFault`), and then the record holds the cause, the pc of the tick, the fetched word (0 if the fetch itself faulted)
and the info, the machine is Halted, and nothing else has changed but the load port; a tick that raises none leaves the
machine Running and the record as it was. That the step is a tick because the schedule is empty (log entry 5) and
closes the load port (log entry 6) is the model's choice. The premise on SP is the invariant's (10_state R27). The
numbers of the causes are stated in `FaultPortsShowTheRecord`. -/
def Obligations.FaultsAreExactAndPrecise : Prop :=
  ∀ s : State, s.runState = .running → s.schedule = [] → s.sp ≤ s.config.stackDepth → ∃ t, step s = .next t ∧
    (tickFault s = none → t.runState = .running ∧ t.fault = s.fault) ∧
    (∀ c n, tickFault s = some (c, n) →
      TookFault s.closeLoad c (if 0xFFF < s.pc.toNat + 1 then 0 else s.fetchWord) n t)

/-- 60_exceptions, the instructions that never fault (R208, which the spec derives from R200 to R204). -/
def Obligations.NonFaultingInstructionsKeepRunning : Prop :=
  ∀ (i : Instr) (s : State), i.mayFault = false → ∃ t, exec i s = .next t ∧
    t.runState = s.runState ∧ t.fault = s.fault

/-- 60_exceptions, the halted machine (R206): the port `halted` is 1, a tick does nothing, every event but `reset` leaves
the machine Halted with its record, and `reset` makes it Running. That an empty schedule is a tick and that a scheduled
tick takes itself off (log entry 5), and that a halted tick leaves the load port too (log entry 20), is the model's
choice. -/
def Obligations.HaltedIsAbsorbing : Prop :=
  ∀ s : State, s.runState = .halted →
    s.haltedOut = true ∧ (s.schedule = [] → step s = .next s) ∧
    (∀ rest, s.schedule = .tick :: rest → step s = .next (s.setSchedule rest)) ∧
    (∀ e t, e ≠ .reset → applyEvent e s = .next t → t.runState = .halted ∧ t.fault = s.fault) ∧
    (∃ t, applyEvent .reset s = .next t ∧ t.runState = .running ∧ t.fault = FaultRecord.zero)

/-! ### The host's events (60_exceptions, 70_reset_and_hazards) -/

/-- 60_exceptions, the timer (R220): `timer_dec` takes 1 from DT, clamped at zero, and changes nothing else, running or
halted. The schedule that holds the event, and its being taken off, is the model's own (log entry 5). -/
def Obligations.TimerDecrementIsClamped : Prop :=
  ∀ (s : State) (rest : List HostEvent), s.schedule = .timerDec :: rest → ∃ t, step s = .next t ∧
    t.dt.toNat = s.dt.toNat - 1 ∧ t.schedule = rest ∧ OnlyChanges (among [.dt, .schedule]) s t

/-- 60_exceptions, the keypad (R222): `key_change` sets one slot to the reported level and changes nothing else, running
or halted. The schedule that holds the event, and its being taken off, is the model's own (log entry 5). -/
def Obligations.KeyChangeSetsOneSlot : Prop :=
  ∀ (s : State) (k : KeyIdx) (pressed : Bool) (rest : List HostEvent), s.schedule = .keyChange k pressed :: rest →
    ∃ t, step s = .next t ∧ t.key k = pressed ∧ t.schedule = rest ∧ OnlyChanges (among [.key k, .schedule]) s t

/-- R240: `reset`, on every state, running or halted, answers a next state with every state element at its value of
10_state R46, and `State.reset` has those values. -/
def Obligations.ResetPutsEveryElementAtItsValue : Prop :=
  ResetValues State.reset ∧ ∀ s : State, ∃ t, applyEvent .reset s = .next t ∧ ResetValues t

/-- 70_reset_and_hazards, program load (R245, R246): the load events of an image that fits, after reset, put byte `j` at
`0x200 + j`, verbatim, and change no other byte. That the events come from the schedule, which is then empty (log entry
5), and that an image that does not fit gives no load event (log entry 22), is the model's choice. -/
def Obligations.LoadEventsPlaceTheImage : Prop :=
  ∀ image : List Byte,
    (0x200 + image.length ≤ 4096 → ∃ t,
      Host.Core.run core image.length (State.reset.setSchedule (loadImage image)) = .next t ∧
      (∀ (j : Nat) (h : j < image.length), t.readByte (0x200 + j) = image[j]) ∧
      (∀ a, a < 0x200 ∨ 0x200 + image.length ≤ a → t.readByte a = State.reset.readByte a) ∧
      t.pc = 0x0200 ∧ t.schedule = []) ∧
    (4096 < 0x200 + image.length → loadImage image = [])

/-- 20_memory and 70_reset_and_hazards, the load port (R62, R245, R248): before the first tick a `load` writes one byte
and nothing else; after it the model refuses the event, which is the model's choice for a write "not specified" (log
entry 6). -/
def Obligations.LoadPortIsOpenBeforeTheFirstTickOnly : Prop :=
  ∀ (s : State) (addr : Addr12) (byte : Byte),
    (s.loadOpen = true → ∃ t, applyEvent (.load addr byte) s = .next t ∧
      t.readByte addr.toNat = byte ∧ OnlyChanges (among [.byte addr.toNat]) s t) ∧
    (s.loadOpen = false → applyEvent (.load addr byte) s = .refused .loadAfterFirstTick) ∧
    (∀ t, s.runState = .running → tick s = .next t → t.loadOpen = false)

/-- 10_state, ownership (R45): of the events after reset, only ticks change `V`, pc, `I` and the stack; `Mem` only ticks
and the load port; `FB` only ticks; `DT` only ticks and `timer_dec`; `Key` only `key_change`. -/
def Obligations.EventsChangeOnlyTheirOwnPieces : Prop :=
  ∀ (e : HostEvent) (s t : State), e ≠ .reset → applyEvent e s = .next t →
    (e ≠ .tick → (∀ r, t.getV r = s.getV r) ∧ t.pc = s.pc ∧ t.index = s.index ∧ t.stack = s.stack ∧
      (∀ y x, t.cell y x = s.cell y x)) ∧
    ((∀ a b, e ≠ .load a b) → e ≠ .tick → ∀ a, t.readByte a = s.readByte a) ∧
    (e ≠ .tick → e ≠ .timerDec → t.dt = s.dt) ∧
    ((∀ k p, e ≠ .keyChange k p) → ∀ k, t.key k = s.key k)

/-- 10_state: which instructions change which piece of state (R26 index, R28 stack, R29 timer, R30 keys, R36
framebuffer, R38 memory), over all 33 instructions. The last clause is about the model's own fields: no instruction
changes the parameters (log entry 2), the load port, which the tick closes and not the instruction (log entry 6), or the
schedule of the host's events (log entry 5). -/
def Obligations.EachPieceHasItsWriters : Prop :=
  ∀ (i : Instr) (s t : State), exec i s = .next t →
    (t.index ≠ s.index → (∃ nnn, i = .ldI nnn) ∨ (∃ x, i = .addI x) ∨ ∃ x, i = .ldF x) ∧
    (t.stack ≠ s.stack → (∃ nnn, i = .call nnn) ∨ i = .ret) ∧
    (t.dt ≠ s.dt → ∃ x, i = .ldDTVx x) ∧
    (∀ k, t.key k = s.key k) ∧
    ((∃ y x, t.cell y x ≠ s.cell y x) → i = .cls ∨ ∃ x y n, i = .drw x y n) ∧
    ((∃ a, t.readByte a ≠ s.readByte a) → (∃ x, i = .ldB x) ∨ ∃ x, i = .dump x) ∧
    t.config = s.config ∧ t.loadOpen = s.loadOpen ∧ t.schedule = s.schedule

/-- R21: the six flag instructions leave VF at 0x00 or 0x01 when they complete; no other instruction changes VF unless
VF is its ordinary destination. -/
def Obligations.FlagRegisterHasItsWriters : Prop :=
  ∀ (i : Instr) (s t : State), exec i s = .next t →
    (i.writesFlag = true → s.runState = .running → t.runState = .running → t.getV 15 = 0 ∨ t.getV 15 = 1) ∧
    (i.writesFlag = false → i.destination ≠ some 15 → t.getV 15 = s.getV 15)

/-- R226: a schedule of events is only an order: stepping through it gives what the events give applied one after the
other to the state without a schedule. The schedule is the model's own field (log entry 5). -/
def Obligations.ScheduleIsOnlyAnOrderOfEvents : Prop :=
  ∀ (es : List HostEvent) (s : State), s.schedule = [] →
    Host.Core.run core es.length (s.setSchedule es) = applyEvents es s

/-- 70_reset_and_hazards, the convention of R250: a machine that stands on a jump to itself stays there: a further tick,
the event of an empty schedule (log entry 5), leaves all state unchanged, but for the load port that a tick closes (the
model's own field, log entry 6). -/
def Obligations.JumpToItselfStands : Prop :=
  ∀ s : State, Finished s → s.schedule = [] → ∃ t, step s = .next t ∧ Finished t ∧ OnlyChanges (among [.loadOpen]) s t

/-! ### Encoding (30_encoding) -/

/-- 30_encoding: decoding the bytes of any instruction, every operand at every value, gives that instruction and the
bytes after it. -/
def Obligations.DecodeInvertsEncode : Prop :=
  ∀ (i : Instr) (rest : List Byte), decode (encodeBytes i ++ rest) = .ok (i, rest)

/-- 30_encoding: every word that decodes is the encoding of what it decodes to, so a word has one meaning and no bit of
it is dropped (the ignored `Y` of the shifts included). -/
def Obligations.EncodeInvertsDecode : Prop :=
  ∀ (op : Word) (i : Instr), decodeWord op = .ok i → encode i = op

/-- R78: decode gives an instruction of the row that the word fits under mask and match, and rejects it as unmapped when
no row fits; no word fits two rows. -/
def Obligations.DecodeAgreesWithTheOpcodeMap : Prop :=
  ∀ op : Word,
    (∀ i, decodeWord op = .ok i → i.row ∈ opcodeMap ∧ i.row.fits op = true) ∧
    (wordMapped op = true → ∃ i, decodeWord op = .ok i) ∧
    (wordMapped op = false → decodeWord op = .error (.unmapped op)) ∧
    (∀ r₁ ∈ opcodeMap, ∀ r₂ ∈ opcodeMap, r₁.fits op = true → r₂.fits op = true → r₁ = r₂)

/-- 30_encoding: words written out from the patterns of R80, one of each format, decode to the instructions they stand
for; `0x6005`, `0x6103`, `0x8014` are the source's own bytes. -/
def Obligations.SampleWordsDecode : Prop :=
  decodeWord 0x6005 = .ok (.ldImm 0 0x05) ∧ decodeWord 0x6103 = .ok (.ldImm 1 0x03) ∧
  decodeWord 0x8014 = .ok (.addReg 0 1) ∧ decodeWord 0x00E0 = .ok .cls ∧ decodeWord 0x1ABC = .ok (.jp 0xABC) ∧
  decodeWord 0xD123 = .ok (.drw 1 2 3) ∧ decodeWord 0xF50A = .ok (.ldVxK 5) ∧
  decodeWord 0xF018 = .error (.unmapped 0xF018) ∧ decodeWord 0x0000 = .error (.unmapped 0x0000)

/-! ### The invariant -/

/-- 10_state, 20_memory, 60_exceptions: every step, whatever event it is, keeps the invariant: memory canonical (the
model's representation, log entry 14) and within 4096 bytes, at most STACK_DEPTH legal return addresses, pc at most
0x10FE, the fault record zero while Running, and while Halted set, with the load port closed (log entry 6). -/
def Obligations.EveryStepKeepsTheInvariant : Prop :=
  ∀ s t : State, StateInv s → step s = .next t → StateInv t

/-- 10_state R46: the invariant (with the model's own clauses, log entries 6 and 14) holds at reset. -/
def Obligations.ResetMeetsTheInvariant : Prop := StateInv State.reset

/-! ### The output ports, and what reset does to the model's own fields -/

/-- 60_exceptions, 10_state, 00_scope (R9, R36, R43, R200 to R205, R224; the codes of 92_eei_decisions D17): after a
faulting tick `halted` is 1, `fault_cause` is the code of the cause, 1 to 5, and the other fault ports show `pc0`, the
word (0 if the fetch itself faulted) and the info; `fb_out` shows the grid, which the fault has left alone. While the
record is zero the fault ports are zero. On every state `halted` shows RunState and `fb_out` every cell. That the step
is a tick because the schedule is empty is the model's choice (log entry 5); the premise on SP is the invariant's. -/
def Obligations.FaultPortsShowTheRecord : Prop :=
  (∀ (s : State) (c : FaultCause) (n : Nat), s.runState = .running → s.schedule = [] → s.sp ≤ s.config.stackDepth →
    tickFault s = some (c, n) → ∃ t, step s = .next t ∧ t.haltedOut = true ∧
      (c = .stackUnderflow → t.faultCauseOut = 1) ∧ (c = .unsupportedOpcode → t.faultCauseOut = 2) ∧
      (c = .addressOutOfRange → t.faultCauseOut = 3) ∧ (c = .stackOverflow → t.faultCauseOut = 4) ∧
      (c = .operandOutOfRange → t.faultCauseOut = 5) ∧ t.faultCauseOut ≠ 0 ∧
      t.faultPcOut = s.pc ∧ t.faultOpcodeOut = (if 0xFFF < s.pc.toNat + 1 then 0 else s.fetchWord) ∧
      t.faultInfoOut.toNat = n ∧ ∀ y x, t.fbOut.cell y x = s.cell y x) ∧
  (∀ s : State, s.fault = FaultRecord.zero →
    s.faultCauseOut = 0 ∧ s.faultPcOut = 0 ∧ s.faultOpcodeOut = 0 ∧ s.faultInfoOut = 0) ∧
  (∀ s : State, (s.haltedOut = true ↔ s.runState = .halted) ∧ ∀ y x, s.fbOut.cell y x = s.cell y x)

/-- 70_reset_and_hazards, 00_scope: a reset event on every state reopens the load port (R245, R248; the model's own field,
log entry 6), and leaves the parameters, the samples and the schedule, which are no state of the spec (log entry 9);
`State.reset` has the load port open and the default parameters of 00_scope R8 (log entry 2). -/
def Obligations.ResetReopensTheLoadPort : Prop :=
  (∀ s : State, ∃ t, applyEvent .reset s = .next t ∧ t.loadOpen = true ∧
    t.config = s.config ∧ t.draws = s.draws ∧ t.schedule = s.schedule) ∧
  State.reset.loadOpen = true ∧ State.reset.config.stackDepth = 16 ∧ State.reset.config.fontBase.val = 0 ∧
  State.reset.config.fontData = defaultFontData
end

