-- ==== Sys2Proof/Laws/Memory.lean ====
section
/-! SUPPORT. Memory as plain storage (20_memory R56): a read gives the last value written, a write changes that byte
only, in every list, canonical or not; and every write keeps the canonical form. -/

namespace Sys2Proof.Machine

variable (d : Nat → Byte)

theorem Memory.read_erase (m : Memory) (a c : Nat) :
    (m.erase a).read d c = if c = a then d a else m.read d c := by
  induction m with
  | nil => by_cases hc : c = a <;> simp [Memory.erase, Memory.read, hc]
  | cons e rest ih =>
    obtain ⟨k, u⟩ := e
    simp only [Memory.erase, List.filter_cons] at ih ⊢
    by_cases hk : k = a
    · subst hk
      by_cases hc : c = k <;> simp_all [Memory.read, eq_comm]
    · by_cases hc : k = c
      · subst hc; simp [hk, Memory.read]
      · simp [hk, Memory.read, hc, ih]

theorem Memory.read_insert (m : Memory) (a c : Nat) (b : Byte) (h : ∀ e ∈ m, e.1 ≠ a) :
    (m.insert a b).read d c = if c = a then b else m.read d c := by
  induction m with
  | nil => simp [Memory.insert, Memory.read, eq_comm]
  | cons e rest ih =>
    obtain ⟨k, u⟩ := e
    have hk : k ≠ a := h (k, u) (by simp)
    have ih := ih (fun e he => h e (by simp [he]))
    unfold Memory.insert
    split
    · by_cases hc : c = a
      · simp [Memory.read, hc]
      · simp [Memory.read, hc, Ne.symm hc]
    · by_cases hc : k = c
      · subst hc; simp [Memory.read, hk]
      · simp [Memory.read, hc, ih]

theorem Memory.erase_ne (m : Memory) (a : Nat) : ∀ e ∈ m.erase a, e.1 ≠ a := by
  intro e he
  simpa using (List.mem_filter.mp he).2

/-- A read after a write: the value written at that address, the old value elsewhere (R56). -/
theorem Memory.read_write (m : Memory) (a c : Nat) (b : Byte) :
    (m.write d a b).read d c = if c = a then b else m.read d c := by
  unfold Memory.write
  split
  · rename_i h; rw [Memory.read_erase, h]
  · rw [Memory.read_insert _ _ _ _ _ (Memory.erase_ne m a), Memory.read_erase]
    split <;> simp_all

theorem Memory.mem_insert {m : Memory} {a : Nat} {b : Byte} {e : Host.Cell} (h : e ∈ m.insert a b) :
    e = (a, b) ∨ e ∈ m := by
  induction m with
  | nil => simpa [Memory.insert] using h
  | cons k rest ih =>
    unfold Memory.insert at h
    split at h <;> simp at h ⊢
    · tauto
    · rcases h with h | h
      · tauto
      · have := ih h; tauto

theorem Memory.insert_sorted {m : Memory} {a : Nat} {b : Byte} (hm : m.Pairwise (fun c e => c.1 < e.1))
    (ha : ∀ e ∈ m, e.1 ≠ a) : (m.insert a b).Pairwise (fun c e => c.1 < e.1) := by
  induction m with
  | nil => simp [Memory.insert]
  | cons k rest ih =>
    obtain ⟨hk, hr⟩ := List.pairwise_cons.mp hm
    have hka : k.1 ≠ a := ha k (by simp)
    unfold Memory.insert
    split
    · rename_i hlt
      refine List.pairwise_cons.mpr ⟨fun e he => ?_, hm⟩
      rcases List.mem_cons.mp he with rfl | he
      · exact hlt
      · exact Nat.lt_trans hlt (hk e he)
    · refine List.pairwise_cons.mpr ⟨fun e he => ?_, ih hr (fun e he => ha e (by simp [he]))⟩
      rcases Memory.mem_insert he with rfl | he
      · simp only at *; omega
      · exact hk e he

theorem Memory.erase_wf {m : Memory} (a : Nat) (h : m.wf d) : (m.erase a).wf d :=
  ⟨h.1.filter _, fun c hc => h.2 c (List.mem_filter.mp hc).1⟩

/-- A write within the address space keeps the canonical form. -/
theorem Memory.write_wf {m : Memory} {a : Nat} {b : Byte} (h : m.wf d) (ha : a < memSize) : (m.write d a b).wf d := by
  unfold Memory.write
  have he := Memory.erase_wf d a h
  split
  · exact he
  · rename_i hb
    refine ⟨Memory.insert_sorted he.1 (Memory.erase_ne m a), fun c hc => ?_⟩
    rcases Memory.mem_insert hc with rfl | hc
    · exact ⟨ha, hb⟩
    · exact he.2 c hc

/-- Memory with nothing listed, as it is at reset, is in the canonical form. -/
theorem Memory.nil_wf : Memory.wf d [] := ⟨.nil, fun _ h => absurd h (List.not_mem_nil)⟩

end Sys2Proof.Machine
end

