-- ==== Sys2Proof/Laws/State.lean ====
section
/-! SUPPORT. For each update of the state and each field or accessor, what it reads after the update: true by rfl, and
simp lemmas, so that no later proof unfolds a record update. -/

namespace Sys2Proof.Machine

variable (s : State)

/-! ### `State.setV` -/

@[simp] theorem State.setV_v (q : RegIdx) (b : Byte) : (s.setV q b).v = s.v.set q.val b := rfl
@[simp] theorem State.setV_pc (q : RegIdx) (b : Byte) : (s.setV q b).pc = s.pc := rfl
@[simp] theorem State.setV_index (q : RegIdx) (b : Byte) : (s.setV q b).index = s.index := rfl
@[simp] theorem State.setV_stack (q : RegIdx) (b : Byte) : (s.setV q b).stack = s.stack := rfl
@[simp] theorem State.setV_dt (q : RegIdx) (b : Byte) : (s.setV q b).dt = s.dt := rfl
@[simp] theorem State.setV_keys (q : RegIdx) (b : Byte) : (s.setV q b).keys = s.keys := rfl
@[simp] theorem State.setV_fb (q : RegIdx) (b : Byte) : (s.setV q b).fb = s.fb := rfl
@[simp] theorem State.setV_mem (q : RegIdx) (b : Byte) : (s.setV q b).mem = s.mem := rfl
@[simp] theorem State.setV_runState (q : RegIdx) (b : Byte) : (s.setV q b).runState = s.runState := rfl
@[simp] theorem State.setV_fault (q : RegIdx) (b : Byte) : (s.setV q b).fault = s.fault := rfl
@[simp] theorem State.setV_config (q : RegIdx) (b : Byte) : (s.setV q b).config = s.config := rfl
@[simp] theorem State.setV_loadOpen (q : RegIdx) (b : Byte) : (s.setV q b).loadOpen = s.loadOpen := rfl
@[simp] theorem State.setV_draws (q : RegIdx) (b : Byte) : (s.setV q b).draws = s.draws := rfl
@[simp] theorem State.setV_schedule (q : RegIdx) (b : Byte) : (s.setV q b).schedule = s.schedule := rfl
@[simp] theorem State.setV_key (q : RegIdx) (b : Byte) (k : KeyIdx) : (s.setV q b).key k = s.key k := rfl
@[simp] theorem State.setV_cell (q : RegIdx) (b : Byte) (y : Fin fbHeight) (x : Fin fbWidth) : (s.setV q b).cell y x = s.cell y x := rfl
@[simp] theorem State.setV_readByte (q : RegIdx) (b : Byte) (a : Nat) : (s.setV q b).readByte a = s.readByte a := rfl

/-! ### `State.setPc` -/

@[simp] theorem State.setPc_v (w : Word) : (s.setPc w).v = s.v := rfl
@[simp] theorem State.setPc_pc (w : Word) : (s.setPc w).pc = w := rfl
@[simp] theorem State.setPc_index (w : Word) : (s.setPc w).index = s.index := rfl
@[simp] theorem State.setPc_stack (w : Word) : (s.setPc w).stack = s.stack := rfl
@[simp] theorem State.setPc_dt (w : Word) : (s.setPc w).dt = s.dt := rfl
@[simp] theorem State.setPc_keys (w : Word) : (s.setPc w).keys = s.keys := rfl
@[simp] theorem State.setPc_fb (w : Word) : (s.setPc w).fb = s.fb := rfl
@[simp] theorem State.setPc_mem (w : Word) : (s.setPc w).mem = s.mem := rfl
@[simp] theorem State.setPc_runState (w : Word) : (s.setPc w).runState = s.runState := rfl
@[simp] theorem State.setPc_fault (w : Word) : (s.setPc w).fault = s.fault := rfl
@[simp] theorem State.setPc_config (w : Word) : (s.setPc w).config = s.config := rfl
@[simp] theorem State.setPc_loadOpen (w : Word) : (s.setPc w).loadOpen = s.loadOpen := rfl
@[simp] theorem State.setPc_draws (w : Word) : (s.setPc w).draws = s.draws := rfl
@[simp] theorem State.setPc_schedule (w : Word) : (s.setPc w).schedule = s.schedule := rfl
@[simp] theorem State.setPc_getV (w : Word) (r : RegIdx) : (s.setPc w).getV r = s.getV r := rfl
@[simp] theorem State.setPc_key (w : Word) (k : KeyIdx) : (s.setPc w).key k = s.key k := rfl
@[simp] theorem State.setPc_cell (w : Word) (y : Fin fbHeight) (x : Fin fbWidth) : (s.setPc w).cell y x = s.cell y x := rfl
@[simp] theorem State.setPc_readByte (w : Word) (a : Nat) : (s.setPc w).readByte a = s.readByte a := rfl

/-! ### `State.advance` -/

@[simp] theorem State.advance_v : (s.advance).v = s.v := rfl
@[simp] theorem State.advance_pc : (s.advance).pc = s.pc + 2 := rfl
@[simp] theorem State.advance_index : (s.advance).index = s.index := rfl
@[simp] theorem State.advance_stack : (s.advance).stack = s.stack := rfl
@[simp] theorem State.advance_dt : (s.advance).dt = s.dt := rfl
@[simp] theorem State.advance_keys : (s.advance).keys = s.keys := rfl
@[simp] theorem State.advance_fb : (s.advance).fb = s.fb := rfl
@[simp] theorem State.advance_mem : (s.advance).mem = s.mem := rfl
@[simp] theorem State.advance_runState : (s.advance).runState = s.runState := rfl
@[simp] theorem State.advance_fault : (s.advance).fault = s.fault := rfl
@[simp] theorem State.advance_config : (s.advance).config = s.config := rfl
@[simp] theorem State.advance_loadOpen : (s.advance).loadOpen = s.loadOpen := rfl
@[simp] theorem State.advance_draws : (s.advance).draws = s.draws := rfl
@[simp] theorem State.advance_schedule : (s.advance).schedule = s.schedule := rfl
@[simp] theorem State.advance_getV (r : RegIdx) : (s.advance).getV r = s.getV r := rfl
@[simp] theorem State.advance_key (k : KeyIdx) : (s.advance).key k = s.key k := rfl
@[simp] theorem State.advance_cell (y : Fin fbHeight) (x : Fin fbWidth) : (s.advance).cell y x = s.cell y x := rfl
@[simp] theorem State.advance_readByte (a : Nat) : (s.advance).readByte a = s.readByte a := rfl

/-! ### `State.setIndex` -/

@[simp] theorem State.setIndex_v (w : Word) : (s.setIndex w).v = s.v := rfl
@[simp] theorem State.setIndex_pc (w : Word) : (s.setIndex w).pc = s.pc := rfl
@[simp] theorem State.setIndex_index (w : Word) : (s.setIndex w).index = w := rfl
@[simp] theorem State.setIndex_stack (w : Word) : (s.setIndex w).stack = s.stack := rfl
@[simp] theorem State.setIndex_dt (w : Word) : (s.setIndex w).dt = s.dt := rfl
@[simp] theorem State.setIndex_keys (w : Word) : (s.setIndex w).keys = s.keys := rfl
@[simp] theorem State.setIndex_fb (w : Word) : (s.setIndex w).fb = s.fb := rfl
@[simp] theorem State.setIndex_mem (w : Word) : (s.setIndex w).mem = s.mem := rfl
@[simp] theorem State.setIndex_runState (w : Word) : (s.setIndex w).runState = s.runState := rfl
@[simp] theorem State.setIndex_fault (w : Word) : (s.setIndex w).fault = s.fault := rfl
@[simp] theorem State.setIndex_config (w : Word) : (s.setIndex w).config = s.config := rfl
@[simp] theorem State.setIndex_loadOpen (w : Word) : (s.setIndex w).loadOpen = s.loadOpen := rfl
@[simp] theorem State.setIndex_draws (w : Word) : (s.setIndex w).draws = s.draws := rfl
@[simp] theorem State.setIndex_schedule (w : Word) : (s.setIndex w).schedule = s.schedule := rfl
@[simp] theorem State.setIndex_getV (w : Word) (r : RegIdx) : (s.setIndex w).getV r = s.getV r := rfl
@[simp] theorem State.setIndex_key (w : Word) (k : KeyIdx) : (s.setIndex w).key k = s.key k := rfl
@[simp] theorem State.setIndex_cell (w : Word) (y : Fin fbHeight) (x : Fin fbWidth) : (s.setIndex w).cell y x = s.cell y x := rfl
@[simp] theorem State.setIndex_readByte (w : Word) (a : Nat) : (s.setIndex w).readByte a = s.readByte a := rfl

/-! ### `State.setDt` -/

@[simp] theorem State.setDt_v (b : Byte) : (s.setDt b).v = s.v := rfl
@[simp] theorem State.setDt_pc (b : Byte) : (s.setDt b).pc = s.pc := rfl
@[simp] theorem State.setDt_index (b : Byte) : (s.setDt b).index = s.index := rfl
@[simp] theorem State.setDt_stack (b : Byte) : (s.setDt b).stack = s.stack := rfl
@[simp] theorem State.setDt_dt (b : Byte) : (s.setDt b).dt = b := rfl
@[simp] theorem State.setDt_keys (b : Byte) : (s.setDt b).keys = s.keys := rfl
@[simp] theorem State.setDt_fb (b : Byte) : (s.setDt b).fb = s.fb := rfl
@[simp] theorem State.setDt_mem (b : Byte) : (s.setDt b).mem = s.mem := rfl
@[simp] theorem State.setDt_runState (b : Byte) : (s.setDt b).runState = s.runState := rfl
@[simp] theorem State.setDt_fault (b : Byte) : (s.setDt b).fault = s.fault := rfl
@[simp] theorem State.setDt_config (b : Byte) : (s.setDt b).config = s.config := rfl
@[simp] theorem State.setDt_loadOpen (b : Byte) : (s.setDt b).loadOpen = s.loadOpen := rfl
@[simp] theorem State.setDt_draws (b : Byte) : (s.setDt b).draws = s.draws := rfl
@[simp] theorem State.setDt_schedule (b : Byte) : (s.setDt b).schedule = s.schedule := rfl
@[simp] theorem State.setDt_getV (b : Byte) (r : RegIdx) : (s.setDt b).getV r = s.getV r := rfl
@[simp] theorem State.setDt_key (b : Byte) (k : KeyIdx) : (s.setDt b).key k = s.key k := rfl
@[simp] theorem State.setDt_cell (b : Byte) (y : Fin fbHeight) (x : Fin fbWidth) : (s.setDt b).cell y x = s.cell y x := rfl
@[simp] theorem State.setDt_readByte (b : Byte) (a : Nat) : (s.setDt b).readByte a = s.readByte a := rfl

/-! ### `State.countDraw` -/

@[simp] theorem State.countDraw_v : (s.countDraw).v = s.v := rfl
@[simp] theorem State.countDraw_pc : (s.countDraw).pc = s.pc := rfl
@[simp] theorem State.countDraw_index : (s.countDraw).index = s.index := rfl
@[simp] theorem State.countDraw_stack : (s.countDraw).stack = s.stack := rfl
@[simp] theorem State.countDraw_dt : (s.countDraw).dt = s.dt := rfl
@[simp] theorem State.countDraw_keys : (s.countDraw).keys = s.keys := rfl
@[simp] theorem State.countDraw_fb : (s.countDraw).fb = s.fb := rfl
@[simp] theorem State.countDraw_mem : (s.countDraw).mem = s.mem := rfl
@[simp] theorem State.countDraw_runState : (s.countDraw).runState = s.runState := rfl
@[simp] theorem State.countDraw_fault : (s.countDraw).fault = s.fault := rfl
@[simp] theorem State.countDraw_config : (s.countDraw).config = s.config := rfl
@[simp] theorem State.countDraw_loadOpen : (s.countDraw).loadOpen = s.loadOpen := rfl
@[simp] theorem State.countDraw_draws : (s.countDraw).draws = s.draws + 1 := rfl
@[simp] theorem State.countDraw_schedule : (s.countDraw).schedule = s.schedule := rfl
@[simp] theorem State.countDraw_getV (r : RegIdx) : (s.countDraw).getV r = s.getV r := rfl
@[simp] theorem State.countDraw_key (k : KeyIdx) : (s.countDraw).key k = s.key k := rfl
@[simp] theorem State.countDraw_cell (y : Fin fbHeight) (x : Fin fbWidth) : (s.countDraw).cell y x = s.cell y x := rfl
@[simp] theorem State.countDraw_readByte (a : Nat) : (s.countDraw).readByte a = s.readByte a := rfl

/-! ### `State.setStack` -/

@[simp] theorem State.setStack_v (st : List Word) : (s.setStack st).v = s.v := rfl
@[simp] theorem State.setStack_pc (st : List Word) : (s.setStack st).pc = s.pc := rfl
@[simp] theorem State.setStack_index (st : List Word) : (s.setStack st).index = s.index := rfl
@[simp] theorem State.setStack_stack (st : List Word) : (s.setStack st).stack = st := rfl
@[simp] theorem State.setStack_dt (st : List Word) : (s.setStack st).dt = s.dt := rfl
@[simp] theorem State.setStack_keys (st : List Word) : (s.setStack st).keys = s.keys := rfl
@[simp] theorem State.setStack_fb (st : List Word) : (s.setStack st).fb = s.fb := rfl
@[simp] theorem State.setStack_mem (st : List Word) : (s.setStack st).mem = s.mem := rfl
@[simp] theorem State.setStack_runState (st : List Word) : (s.setStack st).runState = s.runState := rfl
@[simp] theorem State.setStack_fault (st : List Word) : (s.setStack st).fault = s.fault := rfl
@[simp] theorem State.setStack_config (st : List Word) : (s.setStack st).config = s.config := rfl
@[simp] theorem State.setStack_loadOpen (st : List Word) : (s.setStack st).loadOpen = s.loadOpen := rfl
@[simp] theorem State.setStack_draws (st : List Word) : (s.setStack st).draws = s.draws := rfl
@[simp] theorem State.setStack_schedule (st : List Word) : (s.setStack st).schedule = s.schedule := rfl
@[simp] theorem State.setStack_getV (st : List Word) (r : RegIdx) : (s.setStack st).getV r = s.getV r := rfl
@[simp] theorem State.setStack_key (st : List Word) (k : KeyIdx) : (s.setStack st).key k = s.key k := rfl
@[simp] theorem State.setStack_cell (st : List Word) (y : Fin fbHeight) (x : Fin fbWidth) : (s.setStack st).cell y x = s.cell y x := rfl
@[simp] theorem State.setStack_readByte (st : List Word) (a : Nat) : (s.setStack st).readByte a = s.readByte a := rfl

/-! ### `State.raise` -/

@[simp] theorem State.raise_v (c : FaultCause) (op : Word) (n : Nat) : (s.raise c op n).v = s.v := rfl
@[simp] theorem State.raise_pc (c : FaultCause) (op : Word) (n : Nat) : (s.raise c op n).pc = s.pc := rfl
@[simp] theorem State.raise_index (c : FaultCause) (op : Word) (n : Nat) : (s.raise c op n).index = s.index := rfl
@[simp] theorem State.raise_stack (c : FaultCause) (op : Word) (n : Nat) : (s.raise c op n).stack = s.stack := rfl
@[simp] theorem State.raise_dt (c : FaultCause) (op : Word) (n : Nat) : (s.raise c op n).dt = s.dt := rfl
@[simp] theorem State.raise_keys (c : FaultCause) (op : Word) (n : Nat) : (s.raise c op n).keys = s.keys := rfl
@[simp] theorem State.raise_fb (c : FaultCause) (op : Word) (n : Nat) : (s.raise c op n).fb = s.fb := rfl
@[simp] theorem State.raise_mem (c : FaultCause) (op : Word) (n : Nat) : (s.raise c op n).mem = s.mem := rfl
@[simp] theorem State.raise_runState (c : FaultCause) (op : Word) (n : Nat) : (s.raise c op n).runState = .halted := rfl
@[simp] theorem State.raise_fault (c : FaultCause) (op : Word) (n : Nat) : (s.raise c op n).fault = { cause := c, pc := s.pc, opcode := op, info := BitVec.ofNat 17 n } := rfl
@[simp] theorem State.raise_config (c : FaultCause) (op : Word) (n : Nat) : (s.raise c op n).config = s.config := rfl
@[simp] theorem State.raise_loadOpen (c : FaultCause) (op : Word) (n : Nat) : (s.raise c op n).loadOpen = s.loadOpen := rfl
@[simp] theorem State.raise_draws (c : FaultCause) (op : Word) (n : Nat) : (s.raise c op n).draws = s.draws := rfl
@[simp] theorem State.raise_schedule (c : FaultCause) (op : Word) (n : Nat) : (s.raise c op n).schedule = s.schedule := rfl
@[simp] theorem State.raise_getV (c : FaultCause) (op : Word) (n : Nat) (r : RegIdx) : (s.raise c op n).getV r = s.getV r := rfl
@[simp] theorem State.raise_key (c : FaultCause) (op : Word) (n : Nat) (k : KeyIdx) : (s.raise c op n).key k = s.key k := rfl
@[simp] theorem State.raise_cell (c : FaultCause) (op : Word) (n : Nat) (y : Fin fbHeight) (x : Fin fbWidth) : (s.raise c op n).cell y x = s.cell y x := rfl
@[simp] theorem State.raise_readByte (c : FaultCause) (op : Word) (n : Nat) (a : Nat) : (s.raise c op n).readByte a = s.readByte a := rfl

/-! ### `State.writeByte` -/

@[simp] theorem State.writeByte_v (d : Nat) (b : Byte) : (s.writeByte d b).v = s.v := rfl
@[simp] theorem State.writeByte_pc (d : Nat) (b : Byte) : (s.writeByte d b).pc = s.pc := rfl
@[simp] theorem State.writeByte_index (d : Nat) (b : Byte) : (s.writeByte d b).index = s.index := rfl
@[simp] theorem State.writeByte_stack (d : Nat) (b : Byte) : (s.writeByte d b).stack = s.stack := rfl
@[simp] theorem State.writeByte_dt (d : Nat) (b : Byte) : (s.writeByte d b).dt = s.dt := rfl
@[simp] theorem State.writeByte_keys (d : Nat) (b : Byte) : (s.writeByte d b).keys = s.keys := rfl
@[simp] theorem State.writeByte_fb (d : Nat) (b : Byte) : (s.writeByte d b).fb = s.fb := rfl
@[simp] theorem State.writeByte_mem (d : Nat) (b : Byte) : (s.writeByte d b).mem = s.mem.write (resetByte s.config) d b := rfl
@[simp] theorem State.writeByte_runState (d : Nat) (b : Byte) : (s.writeByte d b).runState = s.runState := rfl
@[simp] theorem State.writeByte_fault (d : Nat) (b : Byte) : (s.writeByte d b).fault = s.fault := rfl
@[simp] theorem State.writeByte_config (d : Nat) (b : Byte) : (s.writeByte d b).config = s.config := rfl
@[simp] theorem State.writeByte_loadOpen (d : Nat) (b : Byte) : (s.writeByte d b).loadOpen = s.loadOpen := rfl
@[simp] theorem State.writeByte_draws (d : Nat) (b : Byte) : (s.writeByte d b).draws = s.draws := rfl
@[simp] theorem State.writeByte_schedule (d : Nat) (b : Byte) : (s.writeByte d b).schedule = s.schedule := rfl
@[simp] theorem State.writeByte_getV (d : Nat) (b : Byte) (r : RegIdx) : (s.writeByte d b).getV r = s.getV r := rfl
@[simp] theorem State.writeByte_key (d : Nat) (b : Byte) (k : KeyIdx) : (s.writeByte d b).key k = s.key k := rfl
@[simp] theorem State.writeByte_cell (d : Nat) (b : Byte) (y : Fin fbHeight) (x : Fin fbWidth) : (s.writeByte d b).cell y x = s.cell y x := rfl

/-! ### `State.closeLoad` -/

@[simp] theorem State.closeLoad_v : (s.closeLoad).v = s.v := rfl
@[simp] theorem State.closeLoad_pc : (s.closeLoad).pc = s.pc := rfl
@[simp] theorem State.closeLoad_index : (s.closeLoad).index = s.index := rfl
@[simp] theorem State.closeLoad_stack : (s.closeLoad).stack = s.stack := rfl
@[simp] theorem State.closeLoad_dt : (s.closeLoad).dt = s.dt := rfl
@[simp] theorem State.closeLoad_keys : (s.closeLoad).keys = s.keys := rfl
@[simp] theorem State.closeLoad_fb : (s.closeLoad).fb = s.fb := rfl
@[simp] theorem State.closeLoad_mem : (s.closeLoad).mem = s.mem := rfl
@[simp] theorem State.closeLoad_runState : (s.closeLoad).runState = s.runState := rfl
@[simp] theorem State.closeLoad_fault : (s.closeLoad).fault = s.fault := rfl
@[simp] theorem State.closeLoad_config : (s.closeLoad).config = s.config := rfl
@[simp] theorem State.closeLoad_loadOpen : (s.closeLoad).loadOpen = false := rfl
@[simp] theorem State.closeLoad_draws : (s.closeLoad).draws = s.draws := rfl
@[simp] theorem State.closeLoad_schedule : (s.closeLoad).schedule = s.schedule := rfl
@[simp] theorem State.closeLoad_getV (r : RegIdx) : (s.closeLoad).getV r = s.getV r := rfl
@[simp] theorem State.closeLoad_key (k : KeyIdx) : (s.closeLoad).key k = s.key k := rfl
@[simp] theorem State.closeLoad_cell (y : Fin fbHeight) (x : Fin fbWidth) : (s.closeLoad).cell y x = s.cell y x := rfl
@[simp] theorem State.closeLoad_readByte (a : Nat) : (s.closeLoad).readByte a = s.readByte a := rfl

/-! ### `State.setKey` -/

@[simp] theorem State.setKey_v (q : KeyIdx) (p : Bool) : (s.setKey q p).v = s.v := rfl
@[simp] theorem State.setKey_pc (q : KeyIdx) (p : Bool) : (s.setKey q p).pc = s.pc := rfl
@[simp] theorem State.setKey_index (q : KeyIdx) (p : Bool) : (s.setKey q p).index = s.index := rfl
@[simp] theorem State.setKey_stack (q : KeyIdx) (p : Bool) : (s.setKey q p).stack = s.stack := rfl
@[simp] theorem State.setKey_dt (q : KeyIdx) (p : Bool) : (s.setKey q p).dt = s.dt := rfl
@[simp] theorem State.setKey_keys (q : KeyIdx) (p : Bool) : (s.setKey q p).keys = s.keys.set q.val p := rfl
@[simp] theorem State.setKey_fb (q : KeyIdx) (p : Bool) : (s.setKey q p).fb = s.fb := rfl
@[simp] theorem State.setKey_mem (q : KeyIdx) (p : Bool) : (s.setKey q p).mem = s.mem := rfl
@[simp] theorem State.setKey_runState (q : KeyIdx) (p : Bool) : (s.setKey q p).runState = s.runState := rfl
@[simp] theorem State.setKey_fault (q : KeyIdx) (p : Bool) : (s.setKey q p).fault = s.fault := rfl
@[simp] theorem State.setKey_config (q : KeyIdx) (p : Bool) : (s.setKey q p).config = s.config := rfl
@[simp] theorem State.setKey_loadOpen (q : KeyIdx) (p : Bool) : (s.setKey q p).loadOpen = s.loadOpen := rfl
@[simp] theorem State.setKey_draws (q : KeyIdx) (p : Bool) : (s.setKey q p).draws = s.draws := rfl
@[simp] theorem State.setKey_schedule (q : KeyIdx) (p : Bool) : (s.setKey q p).schedule = s.schedule := rfl
@[simp] theorem State.setKey_getV (q : KeyIdx) (p : Bool) (r : RegIdx) : (s.setKey q p).getV r = s.getV r := rfl
@[simp] theorem State.setKey_cell (q : KeyIdx) (p : Bool) (y : Fin fbHeight) (x : Fin fbWidth) : (s.setKey q p).cell y x = s.cell y x := rfl
@[simp] theorem State.setKey_readByte (q : KeyIdx) (p : Bool) (a : Nat) : (s.setKey q p).readByte a = s.readByte a := rfl

/-! ### `State.setFb` -/

@[simp] theorem State.setFb_v (g : Framebuffer) : (s.setFb g).v = s.v := rfl
@[simp] theorem State.setFb_pc (g : Framebuffer) : (s.setFb g).pc = s.pc := rfl
@[simp] theorem State.setFb_index (g : Framebuffer) : (s.setFb g).index = s.index := rfl
@[simp] theorem State.setFb_stack (g : Framebuffer) : (s.setFb g).stack = s.stack := rfl
@[simp] theorem State.setFb_dt (g : Framebuffer) : (s.setFb g).dt = s.dt := rfl
@[simp] theorem State.setFb_keys (g : Framebuffer) : (s.setFb g).keys = s.keys := rfl
@[simp] theorem State.setFb_fb (g : Framebuffer) : (s.setFb g).fb = g := rfl
@[simp] theorem State.setFb_mem (g : Framebuffer) : (s.setFb g).mem = s.mem := rfl
@[simp] theorem State.setFb_runState (g : Framebuffer) : (s.setFb g).runState = s.runState := rfl
@[simp] theorem State.setFb_fault (g : Framebuffer) : (s.setFb g).fault = s.fault := rfl
@[simp] theorem State.setFb_config (g : Framebuffer) : (s.setFb g).config = s.config := rfl
@[simp] theorem State.setFb_loadOpen (g : Framebuffer) : (s.setFb g).loadOpen = s.loadOpen := rfl
@[simp] theorem State.setFb_draws (g : Framebuffer) : (s.setFb g).draws = s.draws := rfl
@[simp] theorem State.setFb_schedule (g : Framebuffer) : (s.setFb g).schedule = s.schedule := rfl
@[simp] theorem State.setFb_getV (g : Framebuffer) (r : RegIdx) : (s.setFb g).getV r = s.getV r := rfl
@[simp] theorem State.setFb_key (g : Framebuffer) (k : KeyIdx) : (s.setFb g).key k = s.key k := rfl
@[simp] theorem State.setFb_cell (g : Framebuffer) (y : Fin fbHeight) (x : Fin fbWidth) : (s.setFb g).cell y x = g.cell y x := rfl
@[simp] theorem State.setFb_readByte (g : Framebuffer) (a : Nat) : (s.setFb g).readByte a = s.readByte a := rfl

/-! ### `State.setSchedule` -/

@[simp] theorem State.setSchedule_v (es : List HostEvent) : (s.setSchedule es).v = s.v := rfl
@[simp] theorem State.setSchedule_pc (es : List HostEvent) : (s.setSchedule es).pc = s.pc := rfl
@[simp] theorem State.setSchedule_index (es : List HostEvent) : (s.setSchedule es).index = s.index := rfl
@[simp] theorem State.setSchedule_stack (es : List HostEvent) : (s.setSchedule es).stack = s.stack := rfl
@[simp] theorem State.setSchedule_dt (es : List HostEvent) : (s.setSchedule es).dt = s.dt := rfl
@[simp] theorem State.setSchedule_keys (es : List HostEvent) : (s.setSchedule es).keys = s.keys := rfl
@[simp] theorem State.setSchedule_fb (es : List HostEvent) : (s.setSchedule es).fb = s.fb := rfl
@[simp] theorem State.setSchedule_mem (es : List HostEvent) : (s.setSchedule es).mem = s.mem := rfl
@[simp] theorem State.setSchedule_runState (es : List HostEvent) : (s.setSchedule es).runState = s.runState := rfl
@[simp] theorem State.setSchedule_fault (es : List HostEvent) : (s.setSchedule es).fault = s.fault := rfl
@[simp] theorem State.setSchedule_config (es : List HostEvent) : (s.setSchedule es).config = s.config := rfl
@[simp] theorem State.setSchedule_loadOpen (es : List HostEvent) : (s.setSchedule es).loadOpen = s.loadOpen := rfl
@[simp] theorem State.setSchedule_draws (es : List HostEvent) : (s.setSchedule es).draws = s.draws := rfl
@[simp] theorem State.setSchedule_schedule (es : List HostEvent) : (s.setSchedule es).schedule = es := rfl
@[simp] theorem State.setSchedule_getV (es : List HostEvent) (r : RegIdx) : (s.setSchedule es).getV r = s.getV r := rfl
@[simp] theorem State.setSchedule_key (es : List HostEvent) (k : KeyIdx) : (s.setSchedule es).key k = s.key k := rfl
@[simp] theorem State.setSchedule_cell (es : List HostEvent) (y : Fin fbHeight) (x : Fin fbWidth) : (s.setSchedule es).cell y x = s.cell y x := rfl
@[simp] theorem State.setSchedule_readByte (es : List HostEvent) (a : Nat) : (s.setSchedule es).readByte a = s.readByte a := rfl

end Sys2Proof.Machine
end

