-- ==== Sys2Proof/Laws/Ops.lean ====
section
/-! SUPPORT. For each shared operation (Machine/Ops.lean, Operands.lean, Flags.lean), the lemma that says once
everything it does: what a later proof cites instead of unfolding it. -/

namespace Sys2Proof.Machine

variable (s : State)

/-! ### Reading back what was written -/

@[simp] theorem State.getV_setV (q r : RegIdx) (b : Byte) :
    (s.setV q b).getV r = if r = q then b else s.getV r := by
  simp only [State.getV, State.setV, Vector.getElem_set, Fin.ext_iff, eq_comm]

@[simp] theorem State.key_setKey (q k : KeyIdx) (p : Bool) :
    (s.setKey q p).key k = if k = q then p else s.key k := by
  simp only [State.key, State.setKey, Vector.getElem_set, Fin.ext_iff, eq_comm]

@[simp] theorem State.readByte_writeByte (a c : Nat) (b : Byte) :
    (s.writeByte a b).readByte c = if c = a then b else s.readByte c :=
  Memory.read_write _ _ _ _ _

@[simp] theorem Framebuffer.cell_setCell (fb : Framebuffer) (y cy : Fin fbHeight) (x cx : Fin fbWidth) (lit : Bool) :
    (fb.setCell y x lit).cell cy cx = if cy = y ∧ cx = x then lit else fb.cell cy cx := by
  simp only [Framebuffer.cell, Framebuffer.setCell, Vector.getElem_set, Fin.ext_iff]
  by_cases hy : y.val = cy.val
  · by_cases hx : x.val = cx.val <;> simp [hy, hx, eq_comm]
  · simp [hy, Ne.symm hy]

@[simp] theorem cell_blankFramebuffer (y : Fin fbHeight) (x : Fin fbWidth) : blankFramebuffer.cell y x = false := by
  simp [Framebuffer.cell, blankFramebuffer]

/-- A byte that nothing has written reads as the font or as zero (10_state R46). -/
theorem resetByte_font (c : Config) (j : Fin 80) : resetByte c (c.fontBase.val + j.val) = c.fontData[j.val] := by
  have := j.isLt
  simp [resetByte, fontBytes]

theorem resetByte_outside (c : Config) (a : Nat) (h : a < c.fontBase.val ∨ c.fontBase.val + 80 ≤ a) :
    resetByte c a = 0 := by
  unfold resetByte
  split
  · rename_i h'; simp only [fontBytes] at h'; omega
  · rfl

/-! ### Skips and guards -/

/-- A skip moves pc by 4 or by 2 and nothing else. -/
theorem State.skipIf_eq (c : Bool) : s.skipIf c = s.setPc (if c then s.pc + 4 else s.pc + 2) := by
  cases c <;> rfl

/-- A guarded access faults exactly when some byte of it lies above 0xFFF. -/
theorem State.guardAccess_ok (op : Word) (base n : Nat) (done : State) (h : n = 0 ∨ base + n - 1 ≤ 0xFFF) :
    s.guardAccess op base n done = done := by
  have : accessFaults base n = false := by simp [accessFaults]; omega
  simp [State.guardAccess, this]

theorem State.guardAccess_fault (op : Word) (base n : Nat) (done : State) (h : 0 < n) (h' : 0xFFF < base + n - 1) :
    s.guardAccess op base n done = s.raise .addressOutOfRange op (base + n - 1) := by
  have : accessFaults base n = true := by simp [accessFaults]; omega
  simp [State.guardAccess, this]

/-- A guarded digit faults exactly above 15. -/
theorem State.guardDigit_ok (op : Word) (b : Byte) (done : State) (h : b.toNat ≤ 15) :
    s.guardDigit op b done = done := by
  simp [State.guardDigit]; omega

theorem State.guardDigit_fault (op : Word) (b : Byte) (done : State) (h : 15 < b.toNat) :
    s.guardDigit op b done = s.raise .operandOutOfRange op b.toNat := by
  simp [State.guardDigit, h]

/-- The two outcomes of a guard: the fault, or what the instruction does. -/
theorem State.guardAccess_cases (op : Word) (base n : Nat) (done : State) :
    (accessFaults base n = true ∧ s.guardAccess op base n done = s.raise .addressOutOfRange op (base + n - 1)) ∨
    (accessFaults base n = false ∧ s.guardAccess op base n done = done) := by
  unfold State.guardAccess
  cases accessFaults base n <;> simp

theorem State.guardDigit_cases (op : Word) (b : Byte) (done : State) :
    (15 < b.toNat ∧ s.guardDigit op b done = s.raise .operandOutOfRange op b.toNat) ∨
    (b.toNat ≤ 15 ∧ s.guardDigit op b done = done) := by
  by_cases h : 15 < b.toNat
  · exact .inl ⟨h, s.guardDigit_fault op b done h⟩
  · exact .inr ⟨by omega, s.guardDigit_ok op b done (by omega)⟩

/-! ### Block transfer -/

/-- Storing bytes changes memory only. -/
theorem State.writeBytes_mem (base : Nat) (bs : List Byte) : ∃ m, s.writeBytes base bs = { s with mem := m } := by
  induction bs generalizing s base with
  | nil => exact ⟨s.mem, rfl⟩
  | cons b rest ih =>
    obtain ⟨m, hm⟩ := ih (s.writeByte base b) (base + 1)
    exact ⟨m, by rw [State.writeBytes, hm]; rfl⟩

/-- Storing bytes below 4096 keeps the canonical form. -/
theorem State.writeBytes_wf (base : Nat) (bs : List Byte) (h : Memory.wf (resetByte s.config) s.mem)
    (hb : base + bs.length ≤ memSize) :
    Memory.wf (resetByte (s.writeBytes base bs).config) (s.writeBytes base bs).mem := by
  induction bs generalizing s base with
  | nil => exact h
  | cons b rest ih =>
    simp only [List.length_cons] at hb
    exact ih (s.writeByte base b) (base + 1) (Memory.write_wf _ h (by omega)) (by omega)

/-- The byte stored `k` places after the base is the `k`-th byte of the list; every other byte is as before. -/
theorem State.readByte_writeBytes (base : Nat) (bs : List Byte) (a : Nat) :
    (s.writeBytes base bs).readByte a =
      if base ≤ a ∧ a < base + bs.length then bs.getD (a - base) 0 else s.readByte a := by
  induction bs generalizing s base with
  | nil => rw [State.writeBytes, if_neg]; simp only [List.length_nil]; omega
  | cons b rest ih =>
    simp only [State.writeBytes, ih, State.readByte_writeByte, List.length_cons]
    by_cases h : a = base
    · subst h
      rw [if_neg (by omega), if_pos rfl, if_pos (by omega)]; simp
    · by_cases h' : base + 1 ≤ a ∧ a < base + 1 + rest.length
      · obtain ⟨k, rfl⟩ : ∃ k, a = base + 1 + k := ⟨a - (base + 1), by omega⟩
        rw [if_pos h', if_pos (by omega)]
        simp [show base + 1 + k - base = k + 1 by omega]
      · rw [if_neg h', if_neg h, if_neg (by omega)]

/-- Loading registers changes the registers only. -/
theorem State.loadRegs_v (base : Nat) (rs : List RegIdx) : ∃ v, s.loadRegs base rs = { s with v := v } := by
  induction rs generalizing s with
  | nil => exact ⟨s.v, rfl⟩
  | cons r rest ih =>
    obtain ⟨v, hv⟩ := ih (s.setV r (s.readByte (base + r.val)))
    exact ⟨v, by rw [State.loadRegs, List.foldl_cons, ← State.loadRegs, hv]; rfl⟩

/-- A register listed takes the byte at its own place; every other register is as before. -/
theorem State.getV_loadRegs (base : Nat) (rs : List RegIdx) (r : RegIdx) :
    (s.loadRegs base rs).getV r = if r ∈ rs then s.readByte (base + r.val) else s.getV r := by
  induction rs generalizing s with
  | nil => simp [State.loadRegs]
  | cons q rest ih =>
    rw [State.loadRegs, List.foldl_cons, ← State.loadRegs, ih]
    by_cases h : r = q
    · subst h; simp
    · by_cases h' : r ∈ rest <;> simp [h, h']

theorem mem_regsUpTo (x r : RegIdx) : r ∈ regsUpTo x ↔ r ≤ x := by
  revert x r; decide

theorem length_regsUpTo (x : RegIdx) : (regsUpTo x).length = x.val + 1 := by
  revert x; decide

theorem getElem?_regsUpTo (x r : RegIdx) (h : r ≤ x) : (regsUpTo x)[r.val]? = some r := by
  revert x r; decide

/-! ### Keypad -/

/-- `current_key()` is none exactly when no key is pressed (10_state R31). -/
theorem State.currentKey_none (h : ∀ k, s.key k = false) : s.currentKey = none := by
  simp [State.currentKey, h]

/-- `current_key()` is the lowest pressed key (10_state R31). -/
theorem State.currentKey_lowest (k : KeyIdx) (h : s.key k = true) (hl : ∀ j, j < k → s.key j = false) :
    s.currentKey = some k := by
  unfold State.currentKey
  rw [List.find?_eq_some_iff_append]
  refine ⟨h, allKeys.take k.val, allKeys.drop (k.val + 1), ?_, fun j hj => ?_⟩
  · clear hl h; revert k; decide
  · have : j < k := by revert hj; clear hl h; revert j k; decide
    simp [hl j this]

theorem keyOfByte_eq (b : Byte) (k : KeyIdx) (h : b.toNat = k.val) : keyOfByte b = k := by
  apply Fin.ext
  simp [keyOfByte, h]

/-! ### Values and flags -/

@[simp] theorem toNat_zextAddr (nnn : Addr12) : (zextAddr nnn).toNat = nnn.toNat := by
  have := nnn.isLt
  simp [zextAddr]; omega

@[simp] theorem toNat_addBytes (a b : Byte) : (addBytes a b).toNat = (a.toNat + b.toNat) % 256 := by
  simp [addBytes, trunc8]

@[simp] theorem toNat_subBytes (a b : Byte) : (subBytes a b).toNat = (a.toNat + 256 - b.toNat) % 256 := by
  simp [subBytes, trunc8]

@[simp] theorem toNat_halve (a : Byte) : (halve a).toNat = a.toNat / 2 := by
  simp [halve, BitVec.toNat_ushiftRight, Nat.shiftRight_eq_div_pow]

@[simp] theorem toNat_double (a : Byte) : (double a).toNat = 2 * a.toNat % 256 := by
  simp [double, trunc8]

@[simp] theorem toNat_byteOfKey (k : KeyIdx) : (byteOfKey k).toNat = k.val := by
  have := k.isLt
  simp [byteOfKey]; omega

theorem toNat_indirectTarget (nnn : Addr12) : (indirectTarget s nnn).toNat = nnn.toNat + (s.getV 0).toNat := by
  have h1 := nnn.isLt
  have h2 := (s.getV 0).isLt
  simp only [indirectTarget, trunc16, BitVec.toNat_ofNat]; omega

@[simp] theorem toNat_indexPlus (x : RegIdx) :
    (indexPlus s x).toNat = (s.index.toNat + (s.getV x).toNat) % 65536 := by
  simp [indexPlus, trunc16]

theorem toNat_glyphAddr (c : Config) (b : Byte) (h : b.toNat ≤ 15) :
    (glyphAddr c b).toNat = c.fontBase.val + 5 * b.toNat := by
  have := c.fontBase.isLt
  simp only [glyphAddr, trunc16, BitVec.toNat_ofNat]; omega

theorem shiftedOutLow_iff (b : Byte) : shiftedOutLow b = true ↔ b.toNat % 2 = 1 := by
  simp [shiftedOutLow, BitVec.getLsbD]

theorem shiftedOutHigh_iff (b : Byte) : shiftedOutHigh b = true ↔ 128 ≤ b.toNat := by
  have := b.isLt
  simp [shiftedOutHigh, BitVec.getLsbD, Nat.testBit_eq_decide_div_mod_eq]; omega

/-- VF takes the flag, `V[X]` the result unless `X` is VF, and no other register changes (10_state R22). -/
theorem State.getV_setResultFlag (x r : RegIdx) (b : Byte) (f : Bool) :
    (s.setResultFlag x b f).getV r =
      if r = 15 then flagByte f else if r = x then b else s.getV r := by
  simp [State.setResultFlag, State.setFlag, flagReg]

end Sys2Proof.Machine
end

