-- ==== Sys2Proof/Laws/Draw.lean ====
section
/-! SUPPORT. What the two loops of 44_draw R157 come to: each cell is visited at most once (R159), so the framebuffer
is XORed with the placed sprite, and a collision is recorded iff some lit cell is covered (R158). -/

namespace Sys2Proof.Machine

/-- Row `dy` of a sprite with byte `row` has a 1 bit on the cell. -/
def rowCovers (x y : Nat) (row : Byte) (dy : Nat) (cy : Fin fbHeight) (cx : Fin fbWidth) : Bool :=
  decide (cy = wrapY (y + dy)) && (List.range 8).any fun dx => decide (cx = wrapX (x + dx)) && spriteBit row dx

/-- Some row of a list of rows, the first at `dy`, has a 1 bit on the cell. -/
def rowsCover (x y : Nat) : List Byte → Nat → Fin fbHeight → Fin fbWidth → Bool
  | [], _, _, _ => false
  | row :: rest, dy, cy, cx => rowCovers x y row dy cy cx || rowsCover x y rest (dy + 1) cy cx

theorem wrapX_inj {x a b : Nat} (ha : a < 64) (hb : b < 64) (h : wrapX (x + a) = wrapX (x + b)) : a = b := by
  have := congrArg Fin.val h
  simp only [wrapX, Fin.val_ofNat, fbWidth] at this; omega

theorem wrapY_inj {y a b : Nat} (hab : a < b) (hb : b < a + 32) (h : wrapY (y + a) = wrapY (y + b)) : False := by
  have := congrArg Fin.val h
  simp only [wrapY, Fin.val_ofNat, fbHeight] at this; omega

/-- The first `n` pixels of a row: XORed in, with a collision exactly where a lit cell is covered. -/
theorem drawRow_upTo (x y : Nat) (row : Byte) (dy : Nat) (d : DrawState) (n : Nat) (hn : n ≤ 8) :
    (∀ cy cx, ((List.range n).foldl (drawBit x y row dy) d).fb.cell cy cx =
      (d.fb.cell cy cx ^^ (decide (cy = wrapY (y + dy)) &&
        (List.range n).any fun dx => decide (cx = wrapX (x + dx)) && spriteBit row dx))) ∧
    (((List.range n).foldl (drawBit x y row dy) d).collided =
      (d.collided || (List.range n).any fun dx => d.fb.cell (wrapY (y + dy)) (wrapX (x + dx)) && spriteBit row dx)) := by
  induction n with
  | zero => simp
  | succ n ih =>
    obtain ⟨hc, hk⟩ := ih (by omega)
    have fresh : ((List.range n).any fun dx => decide (wrapX (x + n) = wrapX (x + dx)) && spriteBit row dx) = false := by
      rw [List.any_eq_false]
      intro dx hdx
      have hlt := List.mem_range.mp hdx
      have : wrapX (x + n) ≠ wrapX (x + dx) := fun h => by
        have := wrapX_inj (by omega) (by omega) h; omega
      simp [this]
    have old := hc (wrapY (y + dy)) (wrapX (x + n))
    simp only [fresh, Bool.and_false, Bool.xor_false] at old
    simp only [List.range_succ, List.foldl_append, List.foldl_cons, List.foldl_nil, List.any_append, List.any_cons,
      List.any_nil, Bool.or_false]
    refine ⟨fun cy cx => ?_, ?_⟩
    · simp only [drawBit, Framebuffer.cell_setCell, old]
      by_cases hy : cy = wrapY (y + dy)
      · by_cases hx : cx = wrapX (x + n)
        · subst hy hx; simp [fresh]
        · simp [hy, hx, hc]
      · simp [hy, hc]
    · simp only [drawBit, old, hk]
      cases d.fb.cell (wrapY (y + dy)) (wrapX (x + n)) <;> cases spriteBit row n <;> simp

/-- One row of the sprite: XORed in, with a collision exactly where a lit cell is covered. -/
theorem drawRow_spec (x y : Nat) (row : Byte) (dy : Nat) (d : DrawState) :
    (∀ cy cx, (drawRow x y row dy d).fb.cell cy cx = (d.fb.cell cy cx ^^ rowCovers x y row dy cy cx)) ∧
    ((drawRow x y row dy d).collided = true ↔
      d.collided = true ∨ ∃ cy cx, d.fb.cell cy cx = true ∧ rowCovers x y row dy cy cx = true) := by
  obtain ⟨hc, hk⟩ := drawRow_upTo x y row dy d 8 (Nat.le_refl 8)
  refine ⟨hc, ?_⟩
  rw [drawRow, hk, Bool.or_eq_true]
  refine or_congr Iff.rfl ⟨fun h => ?_, fun ⟨cy, cx, h1, h2⟩ => ?_⟩
  · obtain ⟨dx, hdx, h⟩ := List.any_eq_true.mp h
    simp only [Bool.and_eq_true] at h
    refine ⟨wrapY (y + dy), wrapX (x + dx), h.1, ?_⟩
    simp only [rowCovers, Bool.and_eq_true, decide_eq_true_eq, true_and]
    exact List.any_eq_true.mpr ⟨dx, hdx, by simp [h.2]⟩
  · simp only [rowCovers, Bool.and_eq_true, decide_eq_true_eq] at h2
    obtain ⟨rfl, h2⟩ := h2
    obtain ⟨dx, hdx, h⟩ := List.any_eq_true.mp h2
    simp only [Bool.and_eq_true, decide_eq_true_eq] at h
    exact List.any_eq_true.mpr ⟨dx, hdx, by rw [← h.1]; simp [h1, h.2]⟩

/-- The rows below a row cover no cell of it: at most 32 rows have distinct places (R159). -/
theorem rowsCover_fresh (x y : Nat) (rows : List Byte) (dy dy' : Nat) (h : dy < dy') (hl : dy' + rows.length ≤ dy + 32)
    (cy : Fin fbHeight) (cx : Fin fbWidth) (hcy : cy = wrapY (y + dy)) : rowsCover x y rows dy' cy cx = false := by
  induction rows generalizing dy' with
  | nil => rfl
  | cons row rest ih =>
    simp only [List.length_cons] at hl
    have hne : cy ≠ wrapY (y + dy') := fun h' => wrapY_inj h (by omega) (hcy.symm.trans h')
    simp [rowsCover, rowCovers, hne, ih (dy' + 1) (by omega) (by omega)]

/-- The rows of a sprite, the first at `dy`: XORed in, with a collision exactly where a lit cell is covered. -/
theorem drawRows_spec (x y : Nat) (rows : List Byte) (dy : Nat) (d : DrawState) (hl : rows.length ≤ 32) :
    (∀ cy cx, (drawRows x y rows dy d).fb.cell cy cx = (d.fb.cell cy cx ^^ rowsCover x y rows dy cy cx)) ∧
    ((drawRows x y rows dy d).collided = true ↔
      d.collided = true ∨ ∃ cy cx, d.fb.cell cy cx = true ∧ rowsCover x y rows dy cy cx = true) := by
  induction rows generalizing dy d with
  | nil => simp [drawRows, rowsCover]
  | cons row rest ih =>
    simp only [List.length_cons] at hl
    obtain ⟨hc, hk⟩ := drawRow_spec x y row dy d
    obtain ⟨ic, ik⟩ := ih (dy + 1) (drawRow x y row dy d) (by omega)
    have disjoint : ∀ cy cx, rowCovers x y row dy cy cx = true → rowsCover x y rest (dy + 1) cy cx = false := by
      intro cy cx h
      simp only [rowCovers, Bool.and_eq_true, decide_eq_true_eq] at h
      exact rowsCover_fresh x y rest dy (dy + 1) (by omega) (by omega) cy cx h.1
    refine ⟨fun cy cx => ?_, ?_⟩
    · rw [drawRows, ic, hc, rowsCover]
      cases h : rowCovers x y row dy cy cx
      · simp
      · simp [disjoint cy cx h]
    · rw [drawRows, ik, hk, or_assoc]
      refine or_congr Iff.rfl ⟨?_, ?_⟩
      · rintro (⟨cy, cx, h1, h2⟩ | ⟨cy, cx, h1, h2⟩)
        · exact ⟨cy, cx, h1, by simp [rowsCover, h2]⟩
        · refine ⟨cy, cx, ?_, by simp [rowsCover, h2]⟩
          rw [hc] at h1
          cases h : rowCovers x y row dy cy cx
          · simpa [h] using h1
          · simp [disjoint cy cx h] at h2
      · rintro ⟨cy, cx, h1, h2⟩
        cases h : rowCovers x y row dy cy cx
        · exact .inr ⟨cy, cx, by simp [hc, h, h1], by simpa [rowsCover, h] using h2⟩
        · exact .inl ⟨cy, cx, h1, h⟩

theorem rowsCover_eq_any (x y : Nat) (rows : List Byte) (dy : Nat) (cy : Fin fbHeight) (cx : Fin fbWidth) :
    rowsCover x y rows dy cy cx = (List.range rows.length).any fun j => rowCovers x y (rows.getD j 0) (dy + j) cy cx := by
  induction rows generalizing dy with
  | nil => rfl
  | cons row rest ih =>
    rw [rowsCover, ih, List.length_cons, List.range_succ_eq_map, List.any_cons, List.any_map]
    simp [Function.comp_def, Nat.add_assoc, Nat.add_comm 1]

/-- The rows that `DXYN` reads cover the cells that `spriteCovers` says (R156). -/
theorem rowsCover_readBytes (s : State) (x y n : Nat) (cy : Fin fbHeight) (cx : Fin fbWidth) :
    rowsCover x y (s.readBytes s.base n) 0 cy cx = spriteCovers s x y n cy cx := by
  rw [rowsCover_eq_any, spriteCovers]
  simp only [State.readBytes, List.length_map, List.length_range]
  apply Bool.eq_iff_iff.mpr
  simp only [List.any_eq_true, List.mem_range, rowCovers, Bool.and_eq_true, decide_eq_true_eq, spriteBit, beq_iff_eq,
    wrapX, wrapY, Fin.ext_iff, Fin.val_ofNat, Nat.zero_add]
  refine exists_congr fun dy => and_congr_right fun hdy => ?_
  rw [show ((List.range n).map fun k => s.readByte (s.base + k)).getD dy 0 = s.readByte (s.index.toNat + dy) by
    simp [List.getD, hdy, State.base]]
  constructor
  · rintro ⟨hy, dx, hdx, hx, hb⟩; exact ⟨dx, hdx, ⟨hy.symm, hx.symm⟩, hb⟩
  · rintro ⟨dx, hdx, ⟨hy, hx⟩, hb⟩; exact ⟨hy.symm, dx, hdx, hx.symm, hb⟩

/-- `draw(x, y, MemRead(I, n))` on the state's framebuffer: XOR with the placed sprite; a collision iff some lit cell is
covered (R157 to R159). -/
theorem drawSprite_spec (s : State) (x y n : Nat) (hn : n ≤ 32) :
    (∀ cy cx, (drawSprite s.fb x y (s.readBytes s.base n)).fb.cell cy cx = (s.cell cy cx ^^ spriteCovers s x y n cy cx)) ∧
    ((drawSprite s.fb x y (s.readBytes s.base n)).collided = true ↔
      ∃ cy cx, s.cell cy cx = true ∧ spriteCovers s x y n cy cx = true) := by
  have h := drawRows_spec x y (s.readBytes s.base n) 0 { fb := s.fb, collided := false }
    (by simpa [State.readBytes] using hn)
  simp only [rowsCover_readBytes, Bool.false_eq_true, false_or] at h
  exact h

end Sys2Proof.Machine
end

