-- ==== Sys2Proof/Laws/Encoding.lean ====
section
/-! SUPPORT. The fields of a packed word and its fixed bits, one lemma per format (30_encoding R71 to R77). -/

namespace Sys2Proof

theorem regField_toFin (x : RegIdx) : (regField x).toFin = x := rfl

@[simp] theorem regField_toNat (x : RegIdx) : (regField x).toNat = x.val := rfl

/-! ### A packed word as a number -/

theorem toNat_append_eq {m n : Nat} (a : BitVec m) (b : BitVec n) : (a ++ b).toNat = a.toNat * 2 ^ n + b.toNat := by
  rw [BitVec.toNat_append, ← Nat.shiftLeft_add_eq_or_of_lt b.isLt, Nat.shiftLeft_eq]

theorem packAddr_toNat (a : Nibble) (nnn : Addr12) : (packAddr a nnn).toNat = a.toNat * 4096 + nnn.toNat :=
  toNat_append_eq a nnn

theorem packRegImm_toNat (a : Nibble) (x : RegIdx) (nn : Byte) :
    (packRegImm a x nn).toNat = a.toNat * 4096 + (x.val * 256 + nn.toNat) :=
  (toNat_append_eq a (regField x ++ nn)).trans (by rw [toNat_append_eq]; rfl)

theorem packRegReg_toNat (a : Nibble) (x y : RegIdx) (d : Nibble) :
    (packRegReg a x y d).toNat = a.toNat * 4096 + (x.val * 256 + (y.val * 16 + d.toNat)) :=
  (toNat_append_eq a (regField x ++ (regField y ++ d))).trans (by rw [toNat_append_eq, toNat_append_eq]; rfl)

/-- A field of a word as a number. -/
theorem toNat_field (w : Word) (start len : Nat) : (w.extractLsb' start len).toNat = w.toNat / 2 ^ start % 2 ^ len := by
  rw [BitVec.extractLsb'_toNat, Nat.shiftRight_eq_div_pow]

/-! ### Fixed bits under the masks of R77 -/

theorem packAddr_and (a : Nibble) (nnn : Addr12) : packAddr a nnn &&& 0xF000 = packAddr a 0 := by
  rw [show (0xF000 : Word) = 0xF#4 ++ 0#12 from rfl, packAddr, BitVec.and_append, packAddr]
  rw [show a &&& 0xF#4 = a from BitVec.and_allOnes, BitVec.and_zero]; rfl

theorem packRegImm_and_class (a : Nibble) (x : RegIdx) (nn : Byte) : packRegImm a x nn &&& 0xF000 = packRegImm a 0 0 := by
  rw [show (0xF000 : Word) = 0xF#4 ++ (0#4 ++ 0#8) from rfl, packRegImm, BitVec.and_append, BitVec.and_append, packRegImm]
  rw [show a &&& 0xF#4 = a from BitVec.and_allOnes, BitVec.and_zero, BitVec.and_zero]; rfl

theorem packRegImm_and (a : Nibble) (x : RegIdx) (nn : Byte) : packRegImm a x nn &&& 0xF0FF = packRegImm a 0 nn := by
  rw [show (0xF0FF : Word) = 0xF#4 ++ (0#4 ++ 0xFF#8) from rfl, packRegImm, BitVec.and_append, BitVec.and_append, packRegImm]
  rw [show a &&& 0xF#4 = a from BitVec.and_allOnes, show nn &&& 0xFF#8 = nn from BitVec.and_allOnes, BitVec.and_zero]; rfl

theorem packRegReg_and_class (a : Nibble) (x y : RegIdx) (d : Nibble) :
    packRegReg a x y d &&& 0xF000 = packRegReg a 0 0 0 := by
  rw [show (0xF000 : Word) = 0xF#4 ++ (0#4 ++ (0#4 ++ 0#4)) from rfl, packRegReg, BitVec.and_append, BitVec.and_append,
    BitVec.and_append, packRegReg]
  rw [show a &&& 0xF#4 = a from BitVec.and_allOnes, BitVec.and_zero, BitVec.and_zero, BitVec.and_zero]; rfl

theorem packRegReg_and (a : Nibble) (x y : RegIdx) (d : Nibble) :
    packRegReg a x y d &&& 0xF00F = packRegReg a 0 0 d := by
  rw [show (0xF00F : Word) = 0xF#4 ++ (0#4 ++ (0#4 ++ 0xF#4)) from rfl, packRegReg, BitVec.and_append, BitVec.and_append,
    BitVec.and_append, packRegReg]
  rw [show a &&& 0xF#4 = a from BitVec.and_allOnes, show d &&& 0xF#4 = d from BitVec.and_allOnes, BitVec.and_zero,
    BitVec.and_zero]; rfl

/-! ### Fields of a packed word -/

@[simp] theorem nibA_packAddr (a : Nibble) (nnn : Addr12) : nibA (packAddr a nnn) = a := by
  have := a.isLt; have := nnn.isLt
  apply BitVec.eq_of_toNat_eq; rw [nibA, toNat_field, packAddr_toNat]; omega

@[simp] theorem fieldNNN_packAddr (a : Nibble) (nnn : Addr12) : fieldNNN (packAddr a nnn) = nnn := by
  have := a.isLt; have := nnn.isLt
  apply BitVec.eq_of_toNat_eq; rw [fieldNNN, toNat_field, packAddr_toNat]; omega

@[simp] theorem nibA_packRegImm (a : Nibble) (x : RegIdx) (nn : Byte) : nibA (packRegImm a x nn) = a := by
  have := a.isLt; have := x.isLt; have := nn.isLt
  apply BitVec.eq_of_toNat_eq; rw [nibA, toNat_field, packRegImm_toNat]; omega

@[simp] theorem fieldX_packRegImm (a : Nibble) (x : RegIdx) (nn : Byte) : fieldX (packRegImm a x nn) = x := by
  have := a.isLt; have := x.isLt; have := nn.isLt
  apply Fin.ext; show (nibB _).toNat = _; rw [nibB, toNat_field, packRegImm_toNat]; omega

@[simp] theorem fieldNN_packRegImm (a : Nibble) (x : RegIdx) (nn : Byte) : fieldNN (packRegImm a x nn) = nn := by
  have := a.isLt; have := x.isLt; have := nn.isLt
  apply BitVec.eq_of_toNat_eq; rw [fieldNN, toNat_field, packRegImm_toNat]; omega

@[simp] theorem nibA_packRegReg (a : Nibble) (x y : RegIdx) (d : Nibble) : nibA (packRegReg a x y d) = a := by
  have := a.isLt; have := x.isLt; have := y.isLt; have := d.isLt
  apply BitVec.eq_of_toNat_eq; rw [nibA, toNat_field, packRegReg_toNat]; omega

@[simp] theorem fieldX_packRegReg (a : Nibble) (x y : RegIdx) (d : Nibble) : fieldX (packRegReg a x y d) = x := by
  have := a.isLt; have := x.isLt; have := y.isLt; have := d.isLt
  apply Fin.ext; show (nibB _).toNat = _; rw [nibB, toNat_field, packRegReg_toNat]; omega

@[simp] theorem fieldY_packRegReg (a : Nibble) (x y : RegIdx) (d : Nibble) : fieldY (packRegReg a x y d) = y := by
  have := a.isLt; have := x.isLt; have := y.isLt; have := d.isLt
  apply Fin.ext; show (nibC _).toNat = _; rw [nibC, toNat_field, packRegReg_toNat]; omega

@[simp] theorem nibD_packRegReg (a : Nibble) (x y : RegIdx) (d : Nibble) : nibD (packRegReg a x y d) = d := by
  have := a.isLt; have := x.isLt; have := y.isLt; have := d.isLt
  apply BitVec.eq_of_toNat_eq; rw [nibD, toNat_field, packRegReg_toNat]; omega

/-! ### Bytes of a word -/

theorem wordOfBytes_toNat (hi lo : Byte) : (wordOfBytes hi lo).toNat = hi.toNat * 256 + lo.toNat :=
  toNat_append_eq hi lo

/-- The two bytes of a word, high byte first, are the word again (20_memory R51). -/
theorem wordOfBytes_bytes (w : Word) : wordOfBytes (hiByte w) (loByte w) = w := by
  have := w.isLt
  apply BitVec.eq_of_toNat_eq
  rw [wordOfBytes_toNat, hiByte, loByte, toNat_field, toNat_field]; omega

/-- Decoding the two bytes of a word is decoding the word. -/
theorem decode_bytesOfWord (w : Word) (rest : List Byte) :
    decode (bytesOfWord w ++ rest) = (decodeWord w).map (·, rest) := by
  simp only [bytesOfWord, List.cons_append, List.nil_append, decode, wordOfBytes_bytes]
  cases decodeWord w <;> rfl

end Sys2Proof
end

