-- ==== Sys2Proof/Laws/Step.lean ====
section
/-! SUPPORT. What a tick does, said once: its four cases; that the word placed by `withFetchWord` is the one the next
step runs; what a fault leaves and its ports show; and how the host's events reach a step. -/

namespace Sys2Proof.Machine

/-! ### The tick -/

theorem State.fetchBytes_eq (s : State) : s.fetchBytes = bytesOfWord s.fetchWord := by
  have h1 := (s.readByte s.pc.toNat).isLt
  have h2 := (s.readByte (s.pc.toNat + 1)).isLt
  simp only [State.fetchBytes, bytesOfWord, State.fetchWord, List.cons.injEq, and_true]
  constructor <;> apply BitVec.eq_of_toNat_eq
  · rw [hiByte, toNat_field, wordOfBytes_toNat]; omega
  · rw [loByte, toNat_field, wordOfBytes_toNat]; omega

theorem decode_fetchBytes (s : State) : decode s.fetchBytes = (decodeWord s.fetchWord).map (·, []) := by
  have := decode_bytesOfWord s.fetchWord []
  rwa [List.append_nil, ← State.fetchBytes_eq] at this

theorem runTick_fault (s : State) (h : 0xFFF < s.pc.toNat + 1) :
    runTick s = .next (s.raise .addressOutOfRange 0 (s.pc.toNat + 1)) := by
  have : fetchFaults s.pc = true := by simp [fetchFaults]; omega
  simp [runTick, this]

theorem runTick_ok (s : State) (i : Instr) (h : s.pc.toNat + 1 ≤ 0xFFF) (hd : decodeWord s.fetchWord = .ok i) :
    runTick s = exec i s := by
  have : fetchFaults s.pc = false := by simp [fetchFaults]; omega
  simp [runTick, this, decode_fetchBytes, hd, Except.map]

theorem runTick_unmapped (s : State) (e : DecodeError) (h : s.pc.toNat + 1 ≤ 0xFFF)
    (hd : decodeWord s.fetchWord = .error e) :
    runTick s = .next (s.raise .unsupportedOpcode s.fetchWord s.fetchWord.toNat) := by
  have : fetchFaults s.pc = false := by simp [fetchFaults]; omega
  simp [runTick, this, decode_fetchBytes, hd, Except.map]

/-- The three cases of a tick on a running machine, in the order of 60_exceptions R207. -/
theorem runTick_cases (s : State) :
    (0xFFF < s.pc.toNat + 1 ∧ runTick s = .next (s.raise .addressOutOfRange 0 (s.pc.toNat + 1))) ∨
    (s.pc.toNat + 1 ≤ 0xFFF ∧ runTick s = .next (s.raise .unsupportedOpcode s.fetchWord s.fetchWord.toNat)) ∨
    (s.pc.toNat + 1 ≤ 0xFFF ∧ ∃ i, decodeWord s.fetchWord = .ok i ∧ runTick s = exec i s) := by
  by_cases h : 0xFFF < s.pc.toNat + 1
  · exact .inl ⟨h, runTick_fault s h⟩
  · have h : s.pc.toNat + 1 ≤ 0xFFF := by omega
    cases hd : decodeWord s.fetchWord with
    | error e => exact .inr (.inl ⟨h, runTick_unmapped s e h hd⟩)
    | ok i => exact .inr (.inr ⟨h, i, rfl, runTick_ok s i h hd⟩)

theorem tick_halted (s : State) (h : s.runState = .halted) : tick s = .next s := by
  simp [tick, h]

theorem tick_running (s : State) (h : s.runState = .running) : tick s = runTick s.closeLoad := by
  simp [tick, h]

/-! ### The host's events -/

theorem step_tick (s : State) (h : s.schedule = []) : step s = tick s := by
  simp [step, nextEvent, h]

theorem step_event (s : State) (e : HostEvent) (rest : List HostEvent) (h : s.schedule = e :: rest) :
    step s = applyEvent e (s.setSchedule rest) := by
  simp [step, nextEvent, h]

/-- A run of one step more, by what the first step answers. -/
theorem run_next {k : Nat} {s t : State} (h : step s = .next t) :
    Host.Core.run core (k + 1) s = Host.Core.run core k t := by
  have h : core.step s = .next t := h
  simp only [Host.Core.run]
  rw [h]

theorem run_refused {k : Nat} {s : State} {r : Refusal} (h : step s = .refused r) :
    Host.Core.run core (k + 1) s = .refused r := by
  have h : core.step s = .refused r := h
  simp only [Host.Core.run]
  rw [h]

@[simp] theorem State.closeLoad_fetchWord (s : State) : s.closeLoad.fetchWord = s.fetchWord := rfl

/-! ### Faults -/

/-- Raising a fault leaves what 60_exceptions R205 says, for an `info` of at most 17 bits. -/
theorem State.raise_tookFault (s : State) (c : FaultCause) (op : Word) (n : Nat) (h : n < 2 ^ 17) :
    TookFault s c op n (s.raise c op n) where
  halted := rfl
  cause := rfl
  pc := rfl
  opcode := rfl
  info := by rw [State.raise_fault, BitVec.toNat_ofNat, Nat.mod_eq_of_lt h]
  rest := by
    intro p hp
    cases p <;> first | rfl | exact absurd (by simp [among]) hp

/-- What the fault ports show after a fault has been taken. -/
theorem TookFault.ports {s t : State} {c : FaultCause} {op : Word} {n : Nat} (h : TookFault s c op n t) :
    t.haltedOut = true ∧ t.faultCauseOut = c.code ∧ t.faultPcOut = s.pc ∧ t.faultOpcodeOut = op ∧
    t.faultInfoOut.toNat = n :=
  ⟨by simp [State.haltedOut, h.halted], congrArg FaultCause.code h.cause, h.pc, h.opcode, h.info⟩

/-! ### The load events of an image -/

/-- An image that fits is loaded from 0x200 on. -/
theorem loadImage_fits (image : List Byte) (h : progBase + image.length ≤ memSize) :
    loadImage image = loadImageFrom progBase image := by
  simp [loadImage, imageFits, h]

/-! ### The word placed for the next step -/

theorem State.readyToFetch_pc (s : State) : s.readyToFetch.pc.toNat + 1 ≤ 0xFFF := by
  show (if fetchFaults s.pc then (0x0200 : Word) else s.pc).toNat + 1 ≤ 0xFFF
  by_cases h : 0xFFF < s.pc.toNat + 1
  · simp [fetchFaults, h]
  · simp only [fetchFaults, h]; simp; omega

theorem State.placeWord_fetchWord (s : State) (w : Word) : (s.placeWord w).fetchWord = w := by
  simp only [State.placeWord, State.storeAtPc, State.fetchWord, State.writeByte_pc, State.readByte_writeByte]
  rw [if_neg (by omega), if_pos trivial, if_pos trivial, wordOfBytes_bytes]

/-- The next step after `withFetchWord` runs exactly the instruction the decoder reads from the table's word, from
every state. -/
theorem step_withFetchWord (s : State) (nbits w : Nat) (i : Instr) (h : decodeTableWord nbits w = some i) :
    step (s.withFetchWord nbits w) = exec i (s.withFetchWord nbits w).closeLoad := by
  have hd : decodeWord (tableWord nbits w) = .ok i := by
    have := decode_bytesOfWord (tableWord nbits w) []
    rw [List.append_nil] at this
    unfold decodeTableWord at h
    rw [this] at h
    cases hw : decodeWord (tableWord nbits w) <;> simp [hw, Except.map] at h
    rw [h]
  have hp : (s.withFetchWord nbits w).closeLoad.pc.toNat + 1 ≤ 0xFFF := s.readyToFetch_pc
  rw [step_tick _ rfl, tick_running _ rfl,
    runTick_ok _ i hp (by rw [State.closeLoad_fetchWord, State.withFetchWord, State.placeWord_fetchWord, hd])]

/-- From reset, placing a word changes memory alone. -/
theorem withFetchWord_reset (nbits w : Nat) :
    State.reset.withFetchWord nbits w = State.reset.storeAtPc (tableWord nbits w) := rfl

end Sys2Proof.Machine
end

