-- ==== Sys2Proof/Laws/Exec.lean ====
section
/-! SUPPORT. What an instruction can do, said once: it takes a fault of its own, or it completes with the state its
rule gives. Statements over all instructions are case splits on `Completes`. -/

namespace Sys2Proof.Machine

/-- How instruction `i` completes on `s`: the next state, with the condition under which no fault is taken. -/
def Completes (s t : State) : Instr → Prop
  | .cls => t = (s.setFb blankFramebuffer).advance
  | .ret => ∃ top rest, s.stack = top :: rest ∧ t = (s.setStack rest).setPc top
  | .jp nnn => t = s.setPc (zextAddr nnn)
  | .call nnn => s.sp < s.config.stackDepth ∧ t = (s.setStack ((s.pc + 2) :: s.stack)).setPc (zextAddr nnn)
  | .seImm x nn => t = s.skipIf (s.getV x == nn)
  | .sneImm x nn => t = s.skipIf (s.getV x != nn)
  | .seReg x y => t = s.skipIf (s.getV x == s.getV y)
  | .ldImm x nn => t = s.finishV x nn
  | .addImm x nn => t = s.finishV x (addBytes (s.getV x) nn)
  | .ldReg x y => t = s.finishV x (s.getV y)
  | .orReg x y => t = s.finishV x (s.getV x ||| s.getV y)
  | .andReg x y => t = s.finishV x (s.getV x &&& s.getV y)
  | .xorReg x y => t = s.finishV x (s.getV x ^^^ s.getV y)
  | .addReg x y => t = s.finishFlag x (addBytes (s.getV x) (s.getV y)) (carryOut (s.getV x) (s.getV y))
  | .subReg x y => t = s.finishFlag x (subBytes (s.getV x) (s.getV y)) (noBorrow (s.getV x) (s.getV y))
  | .shr x _ => t = s.finishFlag x (halve (s.getV x)) (shiftedOutLow (s.getV x))
  | .subnReg x y => t = s.finishFlag x (subBytes (s.getV y) (s.getV x)) (noBorrow (s.getV y) (s.getV x))
  | .shl x _ => t = s.finishFlag x (double (s.getV x)) (shiftedOutHigh (s.getV x))
  | .sneReg x y => t = s.skipIf (s.getV x != s.getV y)
  | .ldI nnn => t = (s.setIndex (zextAddr nnn)).advance
  | .jpV0 nnn => t = s.setPc (indirectTarget s nnn)
  | .rnd x nn => t = (s.countDraw.setV x (Config.randIn s.draws &&& nn)).advance
  | .drw x y n => accessFaults s.base n.toNat = false ∧
      t = (s.setDrawn (drawSprite s.fb (s.getV x).toNat (s.getV y).toNat (s.readBytes s.base n.toNat))).advance
  | .skp x => (s.getV x).toNat ≤ 15 ∧ t = s.skipIf (s.key (keyOfByte (s.getV x)))
  | .sknp x => (s.getV x).toNat ≤ 15 ∧ t = s.skipIf (!s.key (keyOfByte (s.getV x)))
  | .ldVxDT x => t = (s.setV x s.dt).advance
  | .ldVxK x => (s.currentKey = none ∧ t = s) ∨ ∃ k, s.currentKey = some k ∧ t = (s.setV x (byteOfKey k)).advance
  | .ldDTVx x => t = (s.setDt (s.getV x)).advance
  | .addI x => t = (s.setIndex (indexPlus s x)).advance
  | .ldF x => (s.getV x).toNat ≤ 15 ∧ t = (s.setIndex (glyphAddr s.config (s.getV x))).advance
  | .ldB x => accessFaults s.base 3 = false ∧ t = (s.writeBytes s.base (bcdDigits (s.getV x))).advance
  | .dump x => accessFaults s.base (blockLength x) = false ∧
      t = (s.writeBytes s.base ((regsUpTo x).map s.getV)).advance
  | .load x => accessFaults s.base (blockLength x) = false ∧ t = (s.loadRegs s.base (regsUpTo x)).advance

/-- An answer to `exec` is a fault of the instruction's own (60_exceptions R205), or its completion. -/
theorem exec_inv {i : Instr} {s t : State} (h : exec i s = .next t) :
    (i.mayFault = true ∧ ∃ c n, c ≠ .noFault ∧ n < 2 ^ 17 ∧ t = s.raise c (encode i) n) ∨ Completes s t i := by
  have hI := s.index.isLt
  have digit : ∀ (op : Word) (x : RegIdx) (d : State), s.guardDigit op (s.getV x) d = t →
      (∃ c n, c ≠ .noFault ∧ n < 2 ^ 17 ∧ t = s.raise c op n) ∨ ((s.getV x).toNat ≤ 15 ∧ t = d) := by
    intro op x d h
    have hx := (s.getV x).isLt
    rcases s.guardDigit_cases op (s.getV x) d with ⟨_, e⟩ | ⟨hk, e⟩
    · exact .inl ⟨.operandOutOfRange, (s.getV x).toNat, by decide, by omega, by rw [← h, e]⟩
    · exact .inr ⟨hk, by rw [← h, e]⟩
  have access : ∀ (op : Word) (n : Nat) (d : State), n ≤ 16 → s.guardAccess op s.base n d = t →
      (∃ c n, c ≠ .noFault ∧ n < 2 ^ 17 ∧ t = s.raise c op n) ∨ (accessFaults s.base n = false ∧ t = d) := by
    intro op n d hn h
    rcases s.guardAccess_cases op s.base n d with ⟨_, e⟩ | ⟨hk, e⟩
    · exact .inl ⟨.addressOutOfRange, s.base + n - 1, by decide, by simp only [State.base]; omega, by rw [← h, e]⟩
    · exact .inr ⟨hk, by rw [← h, e]⟩
  cases i
  case ret =>
    simp only [exec, execRet] at h
    split at h <;> injection h with h
    · exact .inl ⟨rfl, .stackUnderflow, 0, by decide, by decide, h.symm⟩
    · exact .inr ⟨_, _, ‹_›, h.symm⟩
  case call nnn =>
    have hp := s.returnAddr.isLt
    simp only [exec, execCall] at h
    split at h <;> injection h with h
    · exact .inl ⟨rfl, .stackOverflow, _, by decide, by omega, h.symm⟩
    · rename_i hf
      exact .inr ⟨by simpa [State.stackFull] using hf, h.symm⟩
  case ldVxK x =>
    simp only [exec, execLdVxK] at h
    split at h <;> injection h with h
    · exact .inr (.inl ⟨‹_›, h.symm⟩)
    · exact .inr (.inr ⟨_, ‹_›, h.symm⟩)
  case drw x y n => injection h with h; exact (access _ _ _ (by have := n.isLt; omega) h).imp (⟨rfl, ·⟩) id
  case skp x => injection h with h; exact (digit _ _ _ h).imp (⟨rfl, ·⟩) id
  case sknp x => injection h with h; exact (digit _ _ _ h).imp (⟨rfl, ·⟩) id
  case ldF x => injection h with h; exact (digit _ _ _ h).imp (⟨rfl, ·⟩) id
  case ldB x => injection h with h; exact (access _ _ _ (by omega) h).imp (⟨rfl, ·⟩) id
  case dump x => injection h with h; exact (access _ _ _ (by simp only [blockLength]; omega) h).imp (⟨rfl, ·⟩) id
  case load x => injection h with h; exact (access _ _ _ (by simp only [blockLength]; omega) h).imp (⟨rfl, ·⟩) id
  all_goals injection h with h; exact .inr h.symm

end Sys2Proof.Machine
end

