-- ==== Sys2Proof/Laws/Frame.lean ====
section
/-! SUPPORT. The frame predicates of Safety.lean compose: what a proof over several operations or steps cites. -/

namespace Sys2Proof.Machine

theorem Same.refl (s : State) (p : Piece) : Same s s p := by cases p <;> rfl

theorem Same.trans {s t u : State} {p : Piece} (h : Same s t p) (h' : Same t u p) : Same s u p := by
  cases p <;> exact Eq.trans h' h

theorem OnlyChanges.refl (may : Piece → Prop) (s : State) : OnlyChanges may s s := fun p _ => Same.refl s p

/-- A frame may be read as a wider one. -/
theorem OnlyChanges.mono {may may' : Piece → Prop} {s t : State} (h : OnlyChanges may s t) (hm : ∀ p, may p → may' p) :
    OnlyChanges may' s t := fun p hp => h p fun hp' => hp (hm p hp')

/-- Two frames in a row: what either may change. -/
theorem OnlyChanges.trans {may may' : Piece → Prop} {s t u : State} (h : OnlyChanges may s t) (h' : OnlyChanges may' t u) :
    OnlyChanges (fun p => may p ∨ may' p) s u :=
  fun p hp => (h p fun hm => hp (.inl hm)).trans (h' p fun hm => hp (.inr hm))

end Sys2Proof.Machine
end

