-- ==== Sys2Proof/Laws/PerInstr.lean ====
section
/-! SUPPORT. A statement about every instruction as syntax, one lemma per constructor: its word fits its own row of the
opcode map (30_encoding R78, R80), whatever its operands. -/

namespace Sys2Proof.Laws.RowFit

/-- The instruction's row is a row of the map, and its word fits that row. -/
def Statement (i : Instr) : Prop := i.row ∈ opcodeMap ∧ i.row.fits (encode i) = true

/-- A word that has the row's match under the row's mask fits the row. -/
theorem of_and {i : Instr} (hm : i.row ∈ opcodeMap) (h : encode i &&& i.row.mask = i.row.mtch) : Statement i :=
  ⟨hm, by simpa [OpcodeRow.fits] using h⟩

theorem cls : Statement .cls := of_and (by decide) (by decide)
theorem ret : Statement .ret := of_and (by decide) (by decide)
theorem jp (nnn : Addr12) : Statement (.jp nnn) := of_and (by simp [opcodeMap, instrOfEachRow, Instr.row]) (packAddr_and _ nnn)
theorem call (nnn : Addr12) : Statement (.call nnn) := of_and (by simp [opcodeMap, instrOfEachRow, Instr.row]) (packAddr_and _ nnn)
theorem seImm (x : RegIdx) (nn : Byte) : Statement (.seImm x nn) := of_and (by simp [opcodeMap, instrOfEachRow, Instr.row]) (packRegImm_and_class _ x nn)
theorem sneImm (x : RegIdx) (nn : Byte) : Statement (.sneImm x nn) := of_and (by simp [opcodeMap, instrOfEachRow, Instr.row]) (packRegImm_and_class _ x nn)
theorem seReg (x y : RegIdx) : Statement (.seReg x y) := of_and (by simp [opcodeMap, instrOfEachRow, Instr.row]) (packRegReg_and _ x y _)
theorem ldImm (x : RegIdx) (nn : Byte) : Statement (.ldImm x nn) := of_and (by simp [opcodeMap, instrOfEachRow, Instr.row]) (packRegImm_and_class _ x nn)
theorem addImm (x : RegIdx) (nn : Byte) : Statement (.addImm x nn) := of_and (by simp [opcodeMap, instrOfEachRow, Instr.row]) (packRegImm_and_class _ x nn)
theorem ldReg (x y : RegIdx) : Statement (.ldReg x y) := of_and (by simp [opcodeMap, instrOfEachRow, Instr.row]) (packRegReg_and _ x y _)
theorem orReg (x y : RegIdx) : Statement (.orReg x y) := of_and (by simp [opcodeMap, instrOfEachRow, Instr.row]) (packRegReg_and _ x y _)
theorem andReg (x y : RegIdx) : Statement (.andReg x y) := of_and (by simp [opcodeMap, instrOfEachRow, Instr.row]) (packRegReg_and _ x y _)
theorem xorReg (x y : RegIdx) : Statement (.xorReg x y) := of_and (by simp [opcodeMap, instrOfEachRow, Instr.row]) (packRegReg_and _ x y _)
theorem addReg (x y : RegIdx) : Statement (.addReg x y) := of_and (by simp [opcodeMap, instrOfEachRow, Instr.row]) (packRegReg_and _ x y _)
theorem subReg (x y : RegIdx) : Statement (.subReg x y) := of_and (by simp [opcodeMap, instrOfEachRow, Instr.row]) (packRegReg_and _ x y _)
theorem shr (x y : RegIdx) : Statement (.shr x y) := of_and (by simp [opcodeMap, instrOfEachRow, Instr.row]) (packRegReg_and _ x y _)
theorem subnReg (x y : RegIdx) : Statement (.subnReg x y) := of_and (by simp [opcodeMap, instrOfEachRow, Instr.row]) (packRegReg_and _ x y _)
theorem shl (x y : RegIdx) : Statement (.shl x y) := of_and (by simp [opcodeMap, instrOfEachRow, Instr.row]) (packRegReg_and _ x y _)
theorem sneReg (x y : RegIdx) : Statement (.sneReg x y) := of_and (by simp [opcodeMap, instrOfEachRow, Instr.row]) (packRegReg_and _ x y _)
theorem ldI (nnn : Addr12) : Statement (.ldI nnn) := of_and (by simp [opcodeMap, instrOfEachRow, Instr.row]) (packAddr_and _ nnn)
theorem jpV0 (nnn : Addr12) : Statement (.jpV0 nnn) := of_and (by simp [opcodeMap, instrOfEachRow, Instr.row]) (packAddr_and _ nnn)
theorem rnd (x : RegIdx) (nn : Byte) : Statement (.rnd x nn) := of_and (by simp [opcodeMap, instrOfEachRow, Instr.row]) (packRegImm_and_class _ x nn)
theorem drw (x y : RegIdx) (n : Nibble) : Statement (.drw x y n) := of_and (by simp [opcodeMap, instrOfEachRow, Instr.row]) (packRegReg_and_class _ x y n)
theorem skp (x : RegIdx) : Statement (.skp x) := of_and (by simp [opcodeMap, instrOfEachRow, Instr.row]) (packRegImm_and _ x _)
theorem sknp (x : RegIdx) : Statement (.sknp x) := of_and (by simp [opcodeMap, instrOfEachRow, Instr.row]) (packRegImm_and _ x _)
theorem ldVxDT (x : RegIdx) : Statement (.ldVxDT x) := of_and (by simp [opcodeMap, instrOfEachRow, Instr.row]) (packRegImm_and _ x _)
theorem ldVxK (x : RegIdx) : Statement (.ldVxK x) := of_and (by simp [opcodeMap, instrOfEachRow, Instr.row]) (packRegImm_and _ x _)
theorem ldDTVx (x : RegIdx) : Statement (.ldDTVx x) := of_and (by simp [opcodeMap, instrOfEachRow, Instr.row]) (packRegImm_and _ x _)
theorem addI (x : RegIdx) : Statement (.addI x) := of_and (by simp [opcodeMap, instrOfEachRow, Instr.row]) (packRegImm_and _ x _)
theorem ldF (x : RegIdx) : Statement (.ldF x) := of_and (by simp [opcodeMap, instrOfEachRow, Instr.row]) (packRegImm_and _ x _)
theorem ldB (x : RegIdx) : Statement (.ldB x) := of_and (by simp [opcodeMap, instrOfEachRow, Instr.row]) (packRegImm_and _ x _)
theorem dump (x : RegIdx) : Statement (.dump x) := of_and (by simp [opcodeMap, instrOfEachRow, Instr.row]) (packRegImm_and _ x _)
theorem load (x : RegIdx) : Statement (.load x) := of_and (by simp [opcodeMap, instrOfEachRow, Instr.row]) (packRegImm_and _ x _)

end Sys2Proof.Laws.RowFit
end

