-- ==== Sys2Proof/Tests/Slice0.lean ====
section
/-! SUPPORT. The model's own tests: the well-formedness checks refuse ill-formed terms; every constructor decodes from
a word written out from 30_encoding R80; at most two vectors of 95_test_vectors per instruction, one step each; and
for every statement with hypotheses a concrete state and operands that meet them, at the boundary of each clause. -/

namespace Sys2Proof.Tests

open Sys2Proof Sys2Proof.Machine

/-! ### Helpers -/

/-- The answer is a next state with the property. -/
def answers (r : Result) (p : State → Bool) : Bool :=
  match r with
  | .next t => p t
  | _ => false

/-- A reset state with some registers set. -/
def regs (l : List (RegIdx × Byte)) (s : State) : State := l.foldl (fun t e => t.setV e.1 e.2) s

/-- A state with some bytes of memory set. -/
def bytes (a : Nat) (l : List Byte) (s : State) : State := s.writeBytes a l

/-- A state with some cells `(x, y)` lit. -/
def lit (l : List (Nat × Nat)) (s : State) : State :=
  s.setFb (l.foldl (fun fb e => fb.setCell (wrapY e.2) (wrapX e.1) true) s.fb)

/-- The lit cells `(x, y)`, row by row. -/
def litCells (s : State) : List (Nat × Nat) :=
  (List.range 32).flatMap fun y => ((List.range 64).filter fun x => s.cell (wrapY y) (wrapX x)).map fun x => (x, y)

/-- One step from the state with the word `w` at pc. -/
def after (w : Nat) (s : State) (p : State → Bool) : Bool := answers (step (s.withFetchWord 16 w)) p

/-- The state has taken this fault, at this pc and with this word. -/
def faulted (c : FaultCause) (pc op : Word) (info : Nat) (t : State) : Bool :=
  t.runState == .halted && t.fault == { cause := c, pc := pc, opcode := op, info := BitVec.ofNat 17 info } && t.pc == pc

/-- The reset state. -/
abbrev r0 : State := State.reset

/-! ### Well-formedness: each check refuses an ill-formed term -/

/-- One word of each class of unmapped words of R85 fits no row. -/
theorem test_wf_unmapped_words :
    [0x0123, 0x5121, 0x8128, 0x9125, 0xE19F, 0xF118].all (fun op => !wordMapped op) = true := by decide

/-- `STACK_DEPTH = 0` is no configuration (00_scope R8). -/
theorem test_wf_config : { defaultConfig with stackDepth := 0 }.wf = false ∧ defaultConfig.wf = true := by decide

/-- An image of 3585 bytes does not fit, one of 3584 does (70 R246). -/
theorem test_wf_image : imageFits 3585 = false ∧ imageFits 3584 = true := by decide

/-- A memory that lists an address twice, or a byte equal to its reset value, or an address above 0xFFF, is not
canonical. -/
theorem test_wf_memory :
    ¬ Memory.wf (resetByte defaultConfig) [(0x300, 1), (0x300, 2)] ∧
    ¬ Memory.wf (resetByte defaultConfig) [(0x300, 0)] ∧
    ¬ Memory.wf (resetByte defaultConfig) [(0x1000, 1)] := by decide

/-! ### Decoding: a word written out from R80 for every constructor -/

theorem test_decode_control_flow :
    decodeWord 0x00E0 = .ok .cls ∧ decodeWord 0x00EE = .ok .ret ∧ decodeWord 0x1ABC = .ok (.jp 0xABC) ∧
    decodeWord 0x2DEF = .ok (.call 0xDEF) ∧ decodeWord 0x3A42 = .ok (.seImm 0xA 0x42) ∧
    decodeWord 0x4B43 = .ok (.sneImm 0xB 0x43) ∧ decodeWord 0x5120 = .ok (.seReg 1 2) ∧
    decodeWord 0x9340 = .ok (.sneReg 3 4) ∧ decodeWord 0xB30F = .ok (.jpV0 0x30F) := by decide

theorem test_decode_register_ops :
    decodeWord 0x6005 = .ok (.ldImm 0 0x05) ∧ decodeWord 0x71FE = .ok (.addImm 1 0xFE) ∧
    decodeWord 0x8120 = .ok (.ldReg 1 2) ∧ decodeWord 0x8231 = .ok (.orReg 2 3) ∧
    decodeWord 0x8342 = .ok (.andReg 3 4) ∧ decodeWord 0x8453 = .ok (.xorReg 4 5) ∧
    decodeWord 0x8014 = .ok (.addReg 0 1) ∧ decodeWord 0x8675 = .ok (.subReg 6 7) ∧
    decodeWord 0x8786 = .ok (.shr 7 8) ∧ decodeWord 0x8897 = .ok (.subnReg 8 9) ∧
    decodeWord 0x89AE = .ok (.shl 9 0xA) := by decide

theorem test_decode_index_random_draw :
    decodeWord 0xA123 = .ok (.ldI 0x123) ∧ decodeWord 0xFC1E = .ok (.addI 0xC) ∧
    decodeWord 0xFD29 = .ok (.ldF 0xD) ∧ decodeWord 0xC10F = .ok (.rnd 1 0x0F) ∧
    decodeWord 0xD12F = .ok (.drw 1 2 0xF) := by decide

theorem test_decode_keypad_timer_block :
    decodeWord 0xE59E = .ok (.skp 5) ∧ decodeWord 0xE6A1 = .ok (.sknp 6) ∧ decodeWord 0xF70A = .ok (.ldVxK 7) ∧
    decodeWord 0xF807 = .ok (.ldVxDT 8) ∧ decodeWord 0xF915 = .ok (.ldDTVx 9) ∧ decodeWord 0xFA33 = .ok (.ldB 0xA) ∧
    decodeWord 0xFB55 = .ok (.dump 0xB) ∧ decodeWord 0xFE65 = .ok (.load 0xE) := by decide

/-- Unmapped words of 95_test_vectors 2.9 are rejected by name. -/
theorem test_decode_unmapped :
    [0x0000, 0x00E1, 0x00EF, 0x0FFF, 0x5FFF, 0x8008, 0x800D, 0x800F, 0x9001, 0xE09F, 0xE0A0, 0xF008, 0xF01F, 0xF075,
     0xFFFF].all (fun op => decodeWord op == .error (.unmapped op)) = true := by decide

/-- The encoder against words of R80, and the host's numbering of a table word. -/
theorem test_encode : encode (.drw 1 2 0xF) = 0xD12F ∧ encode (.sneReg 3 4) = 0x9340 ∧ encode (.load 0xE) = 0xFE65 ∧
    encodeBytes (.jp 0xABC) = [0x1A, 0xBC] ∧ decodeTableWord 16 0x1ABC = some (.jp 0xABC) ∧
    decodeTableWord 16 0x0000 = none := by decide

/-! ### Control flow (95_test_vectors 2.1) -/

theorem test_cls_TC1 : after 0x00E0 (lit [(0, 0), (63, 31)] r0) (fun t => litCells t == [] && t.pc == 0x202) = true := by
  decide

theorem test_ret_TC2 : after 0x00EE ((r0.setStack [0x0300, 0x0ABC]).setPc 0x400)
    (fun t => t.pc == 0x300 && t.stack == [0x0ABC]) = true := by decide

theorem test_ret_TC3 : after 0x00EE r0 (faulted .stackUnderflow 0x200 0x00EE 0) = true := by decide

theorem test_jp_TC4b : after 0x1201 r0 (fun t => t.pc == 0x201) = true := by decide

theorem test_call_TC5 : after 0x2ABC (r0.setPc 0x2F0) (fun t => t.pc == 0xABC && t.stack == [0x02F2]) = true := by decide

theorem test_call_TC6 : after 0x2ABC ((r0.setStack (List.replicate 16 0x0202)).setPc 0x2F0)
    (fun t => faulted .stackOverflow 0x2F0 0x2ABC 0x2F2 t && t.sp == 16) = true := by decide

theorem test_seImm_TC8 : after 0x3A42 (regs [(0xA, 0x42)] r0) (fun t => t.pc == 0x204) = true := by decide

theorem test_seImm_TC23 : after 0x3000 (r0.setPc 0xFFC) (fun t => t.pc == 0x1000) = true := by decide

theorem test_sneImm_TC10 : after 0x4A42 (regs [(0xA, 0x42)] r0) (fun t => t.pc == 0x202) = true := by decide

theorem test_seReg_TC13 : after 0x5120 (regs [(1, 7), (2, 8)] r0) (fun t => t.pc == 0x202) = true := by decide

theorem test_sneReg_TC17 : after 0x9120 (regs [(1, 7), (2, 8)] r0) (fun t => t.pc == 0x204) = true := by decide

theorem test_jpV0_TC21 : after 0xBFFF (regs [(0, 0xFF)] r0) (fun t => t.pc == 0x10FE) = true := by decide

/-! ### Register operations (2.2) -/

theorem test_ldImm_TR1a : after 0x6F01 r0 (fun t => t.getV 15 == 1 && t.pc == 0x202) = true := by decide

theorem test_ldImm_TC24 : after 0x6A55 (r0.setPc 0xFFE) (fun t => t.getV 0xA == 0x55 && t.pc == 0x1000) = true := by decide

theorem test_addImm_TR3 : after 0x7101 (regs [(1, 0xFF), (15, 0x77)] r0)
    (fun t => t.getV 1 == 0 && t.getV 15 == 0x77) = true := by decide

theorem test_addImm_TR4 : after 0x7101 (regs [(1, 0xFE)] r0) (fun t => t.getV 1 == 0xFF) = true := by decide

theorem test_ldReg_TR5a : after 0x8120 (regs [(1, 0x11), (2, 0x22), (15, 0x77)] r0)
    (fun t => t.getV 1 == 0x22 && t.getV 2 == 0x22 && t.getV 15 == 0x77) = true := by decide

theorem test_orReg_TR5b : after 0x8121 (regs [(1, 0xF0), (2, 0x0F), (15, 0x77)] r0)
    (fun t => t.getV 1 == 0xFF && t.getV 15 == 0x77) = true := by decide

theorem test_andReg_TR5c : after 0x8122 (regs [(1, 0xF0), (2, 0x3C), (15, 0x77)] r0)
    (fun t => t.getV 1 == 0x30 && t.getV 15 == 0x77) = true := by decide

theorem test_xorReg_TR5d : after 0x8123 (regs [(1, 0xF0), (2, 0x3C), (15, 0x77)] r0)
    (fun t => t.getV 1 == 0xCC && t.getV 15 == 0x77) = true := by decide

theorem test_addReg_TR9 : after 0x8124 (regs [(1, 0x80), (2, 0x7F)] r0)
    (fun t => t.getV 1 == 0xFF && t.getV 15 == 0) = true := by decide

theorem test_addReg_TR11 : after 0x8F14 (regs [(15, 0xF0), (1, 0x20)] r0) (fun t => t.getV 15 == 1) = true := by decide

theorem test_subReg_TR16 : after 0x8125 (regs [(1, 3), (2, 5)] r0)
    (fun t => t.getV 1 == 0xFE && t.getV 15 == 0) = true := by decide

theorem test_subReg_TR17 : after 0x8125 (regs [(1, 7), (2, 7)] r0)
    (fun t => t.getV 1 == 0 && t.getV 15 == 1) = true := by decide

theorem test_shr_TR28 : after 0x8126 (regs [(1, 0x05), (2, 0xAA)] r0)
    (fun t => t.getV 1 == 0x02 && t.getV 2 == 0xAA && t.getV 15 == 1) = true := by decide

theorem test_shr_TR34 : after 0x8F06 (regs [(15, 2)] r0) (fun t => t.getV 15 == 0) = true := by decide

theorem test_subnReg_TR23 : after 0x8127 (regs [(1, 3), (2, 5)] r0)
    (fun t => t.getV 1 == 0x02 && t.getV 15 == 1) = true := by decide

theorem test_subnReg_TR27 : after 0x8F17 (regs [(15, 5), (1, 3)] r0) (fun t => t.getV 15 == 0) = true := by decide

theorem test_shl_TR35 : after 0x812E (regs [(1, 0x81), (2, 0x55)] r0)
    (fun t => t.getV 1 == 0x02 && t.getV 2 == 0x55 && t.getV 15 == 1) = true := by decide

theorem test_shl_TR40 : after 0x8F0E (regs [(15, 0x7F)] r0) (fun t => t.getV 15 == 0) = true := by decide

/-! ### Index register, random, draw (2.3 to 2.5) -/

theorem test_ldI_TA1 : after 0xA123 (r0.setIndex 0xFFFF) (fun t => t.index == 0x0123) = true := by decide

theorem test_addI_TA4 : after 0xF11E ((regs [(1, 1), (15, 0x77)] r0).setIndex 0xFFFF)
    (fun t => t.index == 0 && t.getV 15 == 0x77) = true := by decide

theorem test_addI_TA5 : after 0xF11E ((regs [(1, 1)] r0).setIndex 0x0FFF)
    (fun t => t.index == 0x1000 && t.getV 15 == 0) = true := by decide

theorem test_ldF_TA11 : after 0xF129 { regs [(1, 0xA)] r0 with config := { defaultConfig with fontBase := 0x050 } }
    (fun t => t.index == 0x0082) = true := by decide

theorem test_ldF_TA10 : after 0xF129 ((regs [(1, 0x10)] r0).setIndex 0x0999)
    (fun t => faulted .operandOutOfRange 0x200 0xF129 0x10 t && t.index == 0x0999) = true := by decide

/-- TN1 with the free value in place of `r`: the result is masked by `NN`, VF is untouched. -/
theorem test_rnd_TN1 : ∃ t, exec (.rnd 1 0x0F) (regs [(15, 0x77)] r0) = .next t ∧
    t.getV 1 = Config.randIn 0 &&& 0x0F ∧ t.getV 15 = 0x77 ∧ t.draws = 1 := ⟨_, rfl, rfl, rfl, rfl⟩

theorem test_drw_TD7 : after 0xD011 ((bytes 0x300 [0x81] (regs [(0, 0xFF), (1, 0xFF)] r0)).setIndex 0x300)
    (fun t => litCells t == [(6, 31), (63, 31)] && t.getV 15 == 0) = true := by decide

theorem test_drw_TD12 : after 0xD012 ((bytes 0x300 [0x80, 0x80] (lit [(0, 0)] r0)).setIndex 0x300)
    (fun t => litCells t == [(0, 1)] && t.getV 15 == 1) = true := by decide

/-! ### Keypad, timer, block transfer (2.6 to 2.8) -/

theorem test_skp_TK1 : after 0xE19E ((regs [(1, 5)] r0).setKey 5 true) (fun t => t.pc == 0x204) = true := by decide

theorem test_skp_TK3 : after 0xE19E ((regs [(1, 0x10)] r0).setKey 0 true)
    (faulted .operandOutOfRange 0x200 0xE19E 0x10) = true := by decide

theorem test_sknp_TK5 : after 0xE1A1 ((regs [(1, 5)] r0).setKey 5 true) (fun t => t.pc == 0x202) = true := by decide

theorem test_sknp_TK7 : after 0xE1A1 (regs [(1, 0x15)] r0)
    (faulted .operandOutOfRange 0x200 0xE1A1 0x15) = true := by decide

theorem test_ldVxK_TK10 : after 0xF10A (regs [(1, 0x99)] r0)
    (fun t => t.pc == 0x200 && t.getV 1 == 0x99 && t.runState == .running) = true := by decide

theorem test_ldVxK_TK11 : after 0xF10A (((regs [(1, 0x99)] r0).setKey 7 true).setKey 3 true)
    (fun t => t.pc == 0x202 && t.getV 1 == 3) = true := by decide

theorem test_ldVxDT_TT1 : after 0xF107 (r0.setDt 0x2A) (fun t => t.getV 1 == 0x2A && t.dt == 0x2A) = true := by decide

theorem test_ldDTVx_TT2 : after 0xF115 (regs [(1, 0x3C)] r0) (fun t => t.dt == 0x3C && t.pc == 0x202) = true := by decide

theorem test_ldB_TB6 : after 0xF133 ((regs [(1, 0x7B)] r0).setIndex 0xFFD)
    (fun t => t.readBytes 0xFFD 3 == [1, 2, 3] && t.index == 0xFFD) = true := by decide

theorem test_ldB_TB7 : after 0xF133 ((regs [(1, 0x7B)] r0).setIndex 0xFFE)
    (fun t => faulted .addressOutOfRange 0x200 0xF133 0x1000 t && t.readBytes 0xFFE 2 == [0, 0]) = true := by decide

theorem test_dump_TB8 :
    after 0xF255 ((bytes 0x303 [0xEE] (regs [(0, 0x11), (1, 0x22), (2, 0x33), (3, 0x44)] r0)).setIndex 0x300)
      (fun t => t.readBytes 0x300 4 == [0x11, 0x22, 0x33, 0xEE]) = true := by decide

theorem test_dump_TB13 : after 0xF055 ((regs [(0, 0x5A)] r0).setIndex 0x1000)
    (faulted .addressOutOfRange 0x200 0xF055 0x1000) = true := by decide

theorem test_load_TB14 :
    after 0xF265 ((bytes 0x300 [1, 2, 3, 4] (regs [(0, 9), (1, 9), (2, 9), (3, 9)] r0)).setIndex 0x300)
      (fun t => t.getV 0 == 1 && t.getV 1 == 2 && t.getV 2 == 3 && t.getV 3 == 9) = true := by decide

theorem test_load_TB16 : after 0xF165 ((regs [(0, 9), (1, 9)] r0).setIndex 0xFFF)
    (fun t => faulted .addressOutOfRange 0x200 0xF165 0x1000 t && t.getV 0 == 9) = true := by decide

/-! ### The tick, the host's events and reset -/

/-- TC25: a fetch at 0xFFF faults with opcode 0. -/
theorem test_fetch_TC25 : answers (step (r0.setPc 0xFFF)) (faulted .addressOutOfRange 0xFFF 0 0x1000) = true := by decide

/-- TC26: the word 0x0000 that empty memory holds at reset is unmapped. -/
theorem test_reset_step_TC26 : answers (step r0) (faulted .unsupportedOpcode 0x200 0x0000 0x0000) = true := by decide

/-- TT6, TT7: the timer counts down and clamps. -/
theorem test_timerDec_TT7 :
    answers (applyEvent .timerDec (r0.setDt 1)) (fun t => t.dt == 0) = true ∧
    answers (applyEvent .timerDec r0) (fun t => t.dt == 0) = true := by decide

/-- 10_state R46 and R41: glyph 7 lies at 0x023; pc is 0x200. -/
theorem test_reset_font : r0.readBytes 0x23 5 = [0xF0, 0x10, 0x20, 0x40, 0x40] ∧ r0.pc = 0x200 ∧ r0.readByte 0x50 = 0 := by
  decide

/-- The fault ports of a machine that has taken no fault read zero. -/
theorem test_reset_ports : r0.haltedOut = false ∧ r0.faultCauseOut = 0 ∧ r0.faultPcOut = 0 ∧ r0.faultOpcodeOut = 0 ∧
    r0.faultInfoOut = 0 := by decide

/-- The codes of 92_eei_decisions D17. -/
theorem test_fault_codes_D17 :
    [FaultCause.noFault, .stackUnderflow, .unsupportedOpcode, .addressOutOfRange, .stackOverflow, .operandOutOfRange].map
      FaultCause.code = [0, 1, 2, 3, 4, 5] := by decide

/-- PX2: the fault ports after `F018` at 0x200. -/
theorem test_fault_ports_PX2 : after 0xF018 r0 (fun t => t.haltedOut && t.faultCauseOut == 2 && t.faultPcOut == 0x200 &&
    t.faultOpcodeOut == 0xF018 && t.faultInfoOut == 0xF018) = true := by decide

/-! ### Witnesses: states and operands that meet the hypotheses of a statement, clause by clause -/

/-- A running state with an empty schedule, past its first tick, with a word at pc. -/
def ticking (w : Word) (s : State) : State := s.closeLoad.storeAtPc w

/-- A halted machine: reset memory has been executed for one tick. -/
def haltedState : State := r0.closeLoad.raise .unsupportedOpcode 0 0

theorem witness_ReturnPopsTheStack :
    (r0.setStack [0x0300, 0x0ABC]).stack = 0x0300 :: [0x0ABC] ∧ r0.stack = [] := by decide

/-- One entry free, and full. -/
theorem witness_CallPushesTheReturnAddress :
    (r0.setStack (List.replicate 15 0x0202)).sp < r0.config.stackDepth ∧
    (r0.setStack (List.replicate 16 0x0202)).sp = r0.config.stackDepth := by decide

/-- Call and target in the last four bytes of memory; the first tick after reset and load, and a later one. -/
theorem witness_CallThenReturnComesBack :
    let s := bytes 0xFFE [0x00, 0xEE] ((r0.setPc 0xFFC).storeAtPc 0x2FFE)
    s.runState = .running ∧ s.schedule = [] ∧ s.pc.toNat ≤ 0xFFE ∧ (0xFFE : Addr12).toNat ≤ 0xFFE ∧
    s.sp < s.config.stackDepth ∧ s.readByte s.pc.toNat ++ s.readByte (s.pc.toNat + 1) = encode (.call 0xFFE) ∧
    s.readByte 0xFFE = 0x00 ∧ s.readByte (0xFFE + 1) = 0xEE ∧ s.loadOpen = true ∧ s.closeLoad.loadOpen = false := by decide

theorem witness_FontPointerOrOperandFault :
    ((regs [(1, 15)] r0).getV 1).toNat ≤ 15 ∧ 15 < ((regs [(1, 16)] r0).getV 1).toNat := by decide

theorem witness_RandomByteIsSampledOnceAndMasked :
    (∀ x nn, Instr.cls ≠ .rnd x nn) ∧ ∃ t, exec .cls r0 = .next t := ⟨nofun, _, rfl⟩

/-- No byte at all with I at 0xFFFF; the last byte at 0xFFF; the last byte at 0x1000. -/
theorem witness_DrawXorsTheSpriteAndFlagsCollision :
    ((0 : Nibble).toNat = 0 ∨ (r0.setIndex 0xFFFF).index.toNat + (0 : Nibble).toNat - 1 ≤ 0xFFF) ∧
    ((5 : Nibble).toNat = 0 ∨ (r0.setIndex 0xFFB).index.toNat + (5 : Nibble).toNat - 1 ≤ 0xFFF) ∧
    (0 < (5 : Nibble).toNat ∧ 0xFFF < (r0.setIndex 0xFFC).index.toNat + (5 : Nibble).toNat - 1) := by decide

/-- A sprite that covers a lit cell, and one that covers none. -/
theorem witness_DrawCollision :
    (let s := (bytes 0x300 [0x80] (lit [(0, 0)] r0)).setIndex 0x300
     ∃ cy cx, s.cell cy cx = true ∧ spriteCovers s 0 0 1 cy cx = true) ∧
    ¬ ∃ cy cx, r0.cell cy cx = true ∧ spriteCovers r0 0 0 1 cy cx = true :=
  ⟨⟨0, 0, by decide⟩, fun ⟨cy, cx, h, _⟩ => by simp [State.cell, Framebuffer.cell, State.reset] at h⟩

/-- The glyph of 0 drawn at column 63 and row 31, over both edges, with registers other than VF. -/
theorem witness_DrawTwiceRestoresTheGrid :
    ∃ t, exec (.drw 1 2 2) (regs [(1, 63), (2, 31)] r0) = .next t ∧
      t.getV 1 = (regs [(1, 63), (2, 31)] r0).getV 1 ∧ t.getV 2 = (regs [(1, 63), (2, 31)] r0).getV 2 ∧
      r0.index.toNat + (2 : Nibble).toNat - 1 ≤ 0xFFF := ⟨_, rfl, by decide, by decide, by decide⟩

/-- Row 1 and pixel 7 of a sprite of two rows at column 63 and row 31; pixel 0 and row 0 stay at the edge. -/
theorem witness_DrawWrapsAtTheEdges :
    let s := regs [(1, 63), (2, 31)] r0
    s.index.toNat + (2 : Nibble).toNat - 1 ≤ 0xFFF ∧ (∃ t, exec (.drw 1 2 2) s = .next t) ∧
    (s.getV 1).toNat = 63 ∧ (s.getV 2).toNat = 31 ∧
    (1 < (2 : Nibble).toNat ∧ (0 : Fin fbHeight).val = ((s.getV 2).toNat + 1) % 32 ∧
      (6 : Fin fbWidth).val = ((s.getV 1).toNat + 7) % 64 ∧ (6 : Fin fbWidth).val = 7 - 1) ∧
    (0 < (2 : Nibble).toNat ∧ (31 : Fin fbHeight).val = ((s.getV 2).toNat + 0) % 32 ∧
      (63 : Fin fbWidth).val = ((s.getV 1).toNat + 0) % 64) :=
  ⟨by decide, ⟨_, rfl⟩, by decide, by decide, by decide, by decide⟩

theorem witness_KeySkipsTestOneSlot :
    ((regs [(1, 15)] r0).getV 1).toNat = (15 : KeyIdx).val ∧ (r0.getV 1).toNat = (0 : KeyIdx).val ∧
    15 < ((regs [(1, 16)] r0).getV 1).toNat := by decide

/-- No key; only the highest key; the lowest key with others. -/
theorem witness_KeyWaitTakesTheLowestKey :
    (∀ k, r0.key k = false) ∧
    ((r0.setKey 15 true).key 15 = true ∧ ∀ j, j < (15 : KeyIdx) → (r0.setKey 15 true).key j = false) ∧
    (((r0.setKey 0 true).setKey 7 true).key 0 = true ∧
      ∀ j, j < (0 : KeyIdx) → ((r0.setKey 0 true).setKey 7 true).key j = false) := by decide

/-- The first tick after reset and load, and a later one; pc at its highest. -/
theorem witness_KeyWaitRepeatsWhileNoKeyIsPressed :
    let s := (r0.setPc 0xFFE).storeAtPc 0xF10A
    s.runState = .running ∧ s.schedule = [] ∧ s.pc.toNat ≤ 0xFFE ∧
    s.readByte s.pc.toNat ++ s.readByte (s.pc.toNat + 1) = encode (.ldVxK 1) ∧ (∀ key, s.key key = false) ∧
    s.loadOpen = true ∧ s.closeLoad.loadOpen = false := by decide

theorem witness_BcdStoresThreeDigits :
    (r0.setIndex 0xFFD).index.toNat + 2 ≤ 0xFFF ∧ 0xFFF < (r0.setIndex 0xFFE).index.toNat + 2 := by decide

/-- The last byte at 0xFFF and at 0x1000, for one register and for all sixteen: `FX55` and `FX65` alike. -/
theorem witness_DumpStoresTheRegisters :
    (r0.setIndex 0xFFF).index.toNat + (0 : RegIdx).val ≤ 0xFFF ∧
    (r0.setIndex 0xFF0).index.toNat + (15 : RegIdx).val ≤ 0xFFF ∧
    0xFFF < (r0.setIndex 0xFF1).index.toNat + (15 : RegIdx).val := by decide

theorem witness_LoadFillsTheRegisters :
    (r0.setIndex 0xFFE).index.toNat + (1 : RegIdx).val ≤ 0xFFF ∧
    0xFFF < (r0.setIndex 0xFFF).index.toNat + (1 : RegIdx).val := by decide

theorem witness_DumpAndLoadRoundTrip : (r0.setIndex 0xFF0).index.toNat + (15 : RegIdx).val ≤ 0xFFF := by decide

/-- The last two registers of a dump that ends at 0xFFF. -/
theorem witness_StoredBytesAreFetched :
    (r0.setIndex 0xFF0).index.toNat + (15 : RegIdx).val ≤ 0xFFF ∧ 14 + 1 ≤ (15 : RegIdx).val ∧
    (14 : RegIdx).val = 14 ∧ (15 : RegIdx).val = 14 + 1 ∧
    (0xFFE : Word).toNat = (r0.setIndex 0xFF0).index.toNat + 14 := by decide

/-- Memory after two writes, in either order. -/
theorem witness_CanonicalMemoryIsDetermined :
    let d := resetByte defaultConfig
    let m := Memory.write d (Memory.write d [] 0x300 1) 0x000 2
    let n := Memory.write d (Memory.write d [] 0x000 2) 0x300 1
    Memory.wf d m ∧ Memory.wf d n ∧ ∀ a, m.read d a = n.read d a :=
  ⟨by decide, by decide, fun a => by
    simp only [Memory.read_write]
    by_cases h : a = 0
    · subst h; rfl
    · rw [if_neg h, if_neg h]⟩

/-- The reset state with a word at pc, by an empty schedule and by a scheduled tick; pc at its highest. -/
theorem witness_StepRunsTheDecodedInstruction :
    let s := (r0.setPc 0xFFE).storeAtPc 0x6A55
    s.runState = .running ∧ s.pc.toNat + 1 ≤ 0xFFF ∧
    decode [s.readByte s.pc.toNat, s.readByte (s.pc.toNat + 1)] = .ok (.ldImm 0xA 0x55, []) ∧ s.schedule = [] ∧
    (s.setSchedule [.tick, .timerDec]).schedule = .tick :: [.timerDec] := by decide

/-- pc at 0xFFE and at 0xFFF. -/
theorem witness_FetchIsBoundsCheckedAndBigEndian :
    r0.runState = .running ∧ r0.schedule = [] ∧ 0xFFF < (r0.setPc 0xFFF).pc.toNat + 1 ∧
    ((r0.setPc 0xFFE).storeAtPc 0x00EE).pc.toNat + 1 ≤ 0xFFF ∧
    decodeWord ((r0.setPc 0xFFE).storeAtPc 0x00EE).fetchWord = .ok .ret := by decide

theorem witness_UnmappedWordHalts :
    let s := r0.storeAtPc 0xF118
    s.runState = .running ∧ s.schedule = [] ∧ s.pc.toNat + 1 ≤ 0xFFF ∧ wordMapped s.fetchWord = false := by decide

/-- Each kind of fault at the first value that raises it, with the stack full for the overflow; and no fault. -/
theorem witness_FaultsAreExactAndPrecise :
    let full := (ticking 0x2200 r0).setStack (List.replicate 16 0x0202)
    full.runState = .running ∧ full.schedule = [] ∧ full.sp ≤ full.config.stackDepth ∧
    tickFault full = some (.stackOverflow, 0x202) ∧
    tickFault (ticking 0x2200 r0) = none ∧
    tickFault (ticking 0x00EE r0) = some (.stackUnderflow, 0) ∧
    tickFault (ticking 0xE19E (regs [(1, 16)] r0)) = some (.operandOutOfRange, 16) ∧
    tickFault ((ticking 0xF133 r0).setIndex 0xFFE) = some (.addressOutOfRange, 0x1000) ∧
    tickFault (r0.setPc 0xFFF) = some (.addressOutOfRange, 0x1000) ∧
    tickFault r0 = some (.unsupportedOpcode, 0) := by decide

theorem witness_NonFaultingInstructionsKeepRunning : (Instr.ldVxK 1).mayFault = false := rfl

/-- A halted machine, with an empty schedule and a scheduled tick; a tick and a timer event that answer. -/
theorem witness_HaltedIsAbsorbing :
    haltedState.runState = .halted ∧ haltedState.schedule = [] ∧
    (haltedState.setSchedule [.tick]).runState = .halted ∧ (haltedState.setSchedule [.tick]).schedule = .tick :: [] ∧
    (HostEvent.tick ≠ .reset ∧ ∃ t, applyEvent .tick haltedState = .next t) ∧
    (HostEvent.timerDec ≠ .reset ∧ ∃ t, applyEvent .timerDec haltedState = .next t) :=
  ⟨rfl, rfl, rfl, rfl, ⟨nofun, _, rfl⟩, ⟨nofun, _, rfl⟩⟩

/-- At zero and at the top. -/
theorem witness_TimerDecrementIsClamped :
    (r0.setSchedule [.timerDec]).schedule = .timerDec :: [] ∧ r0.dt = 0 ∧
    ((r0.setDt 0xFF).setSchedule [.timerDec, .tick]).schedule = .timerDec :: [.tick] := by decide

theorem witness_KeyChangeSetsOneSlot :
    (r0.setSchedule [.keyChange 15 true]).schedule = .keyChange 15 true :: [] := rfl

/-- The addresses outside the font at their boundaries, for the default parameters and for the font at its highest. -/
theorem witness_ResetPutsEveryElementAtItsValue :
    (0x50 ≤ 0xFFF ∧ r0.config.fontBase.val + 80 ≤ 0x50) ∧ (0xFFF ≤ 0xFFF ∧ r0.config.fontBase.val + 80 ≤ 0xFFF) ∧
    0x1AF < ({ defaultConfig with fontBase := 0x1B0 } : Config).fontBase.val := by decide

/-- No byte, the longest image, and one byte more. -/
theorem witness_LoadEventsPlaceTheImage :
    0x200 + ([] : List Byte).length ≤ 4096 ∧ 0x200 + (List.replicate 3584 (0 : Byte)).length ≤ 4096 ∧
    4096 < 0x200 + (List.replicate 3585 (0 : Byte)).length := by
  simp only [List.length_replicate, List.length_nil]; decide

theorem witness_LoadPortIsOpenBeforeTheFirstTickOnly :
    r0.loadOpen = true ∧ haltedState.loadOpen = false ∧ r0.runState = .running ∧ ∃ t, tick r0 = .next t :=
  ⟨rfl, rfl, rfl, _, rfl⟩

/-- Each kind of event but reset answers from the reset state. -/
theorem witness_EventsChangeOnlyTheirOwnPieces :
    (∃ t, applyEvent .tick r0 = .next t) ∧ (∃ t, applyEvent (.load 0xFFF 1) r0 = .next t) ∧
    (∃ t, applyEvent .timerDec r0 = .next t) ∧ ∃ t, applyEvent (.keyChange 0 true) r0 = .next t :=
  ⟨⟨_, rfl⟩, ⟨_, rfl⟩, ⟨_, rfl⟩, _, rfl⟩

/-- Each kind of piece changed by some instruction. -/
theorem witness_EachPieceHasItsWriters :
    answers (exec (.ldI 0xFFF) r0) (fun t => t.index != r0.index) = true ∧
    answers (exec (.call 0) r0) (fun t => t.stack != r0.stack) = true ∧
    answers (exec (.ldDTVx 1) (regs [(1, 1)] r0)) (fun t => t.dt != r0.dt) = true ∧
    answers (exec .cls (lit [(63, 31)] r0)) (fun t => t.cell 31 63 != (lit [(63, 31)] r0).cell 31 63) = true ∧
    answers (exec (.ldB 1) ((regs [(1, 1)] r0).setIndex 0xFFD)) (fun t => t.readByte 0xFFF != r0.readByte 0xFFF) = true := by
  decide

/-- A flag instruction that completes, and an instruction without a flag whose destination is not VF. -/
theorem witness_FlagRegisterHasItsWriters :
    ((Instr.addReg 15 1).writesFlag = true ∧ r0.runState = .running ∧
      ∃ t, exec (.addReg 15 1) r0 = .next t ∧ t.runState = .running) ∧
    ((Instr.load 14).writesFlag = false ∧ (Instr.load 14).destination ≠ some 15 ∧ ∃ t, exec (.load 14) r0 = .next t) :=
  ⟨⟨rfl, rfl, _, rfl, rfl⟩, rfl, by decide, _, rfl⟩

theorem witness_ScheduleIsOnlyAnOrderOfEvents : r0.schedule = [] := rfl

/-- A jump to itself at 0x200 and at 0xFFE. -/
theorem witness_JumpToItselfStands :
    (Finished (r0.storeAtPc 0x1200) ∧ (r0.storeAtPc 0x1200).schedule = []) ∧
    Finished ((r0.setPc 0xFFE).storeAtPc 0x1FFE) :=
  ⟨⟨⟨rfl, by decide, by decide⟩, rfl⟩, rfl, by decide, by decide⟩

theorem witness_EncodeInvertsDecode : decodeWord 0x812E = .ok (.shl 1 2) := by decide

/-- A word of a row, and a word of none. -/
theorem witness_DecodeAgreesWithTheOpcodeMap :
    decodeWord 0xFF65 = .ok (.load 15) ∧ wordMapped 0xFF65 = true ∧ wordMapped 0xFF66 = false ∧
    (Instr.load 0).row ∈ opcodeMap ∧ (Instr.load 0).row.fits 0xFF65 = true := by decide

/-- A state that meets the invariant, pc at its highest and the stack full, and a step that answers there. -/
theorem witness_EveryStepKeepsTheInvariant :
    let s := (r0.setStack (List.replicate 16 0x1000)).setPc 0x10FE
    StateInv s ∧ ∃ t, step s = .next t :=
  ⟨{ configWf := by decide, memWf := Memory.nil_wf _, stackBound := by decide,
     stackLegal := fun w h => by rw [List.eq_of_mem_replicate h]; exact ⟨by decide, by decide⟩,
     pcBound := by decide, faultZero := fun _ => rfl, faultSet := nofun }, _, rfl⟩

/-- A fault of each cause (its premises for every kind: `witness_FaultsAreExactAndPrecise`), and the zero record. -/
theorem witness_FaultPortsShowTheRecord :
    (r0.runState = .running ∧ r0.schedule = [] ∧ r0.sp ≤ r0.config.stackDepth ∧
      tickFault r0 = some (.unsupportedOpcode, 0)) ∧ r0.fault = FaultRecord.zero := by decide

/-- `X` other than VF, with and without a carry, a borrow and a bit shifted out. -/
theorem witness_WritesResultThenFlag :
    (1 : RegIdx) ≠ 15 ∧ 255 < (0xFF : Byte).toNat + (0x01 : Byte).toNat ∧ ¬ 255 < (0x80 : Byte).toNat + (0x7F : Byte).toNat ∧
    (7 : Byte).toNat ≤ (7 : Byte).toNat ∧ ¬ (5 : Byte).toNat ≤ (3 : Byte).toNat ∧ (1 : Byte).toNat % 2 = 1 ∧
    ¬ (2 : Byte).toNat % 2 = 1 ∧ 128 ≤ (0x80 : Byte).toNat ∧ ¬ 128 ≤ (0x7F : Byte).toNat := by decide

end Sys2Proof.Tests
end

/-! PROOFS. The decoder against the opcode map (30_encoding R78, R80). One direction goes through the encoder: what a
word decodes to encodes to that word, and every encoding fits its row. The other goes through the fields: the bits that
a row fixes are the fields that the decoder branches on. -/

namespace Sys2Proof

/-! ### A word is packed from its own fields -/

theorem packAddr_fields (op : Word) : packAddr (nibA op) (fieldNNN op) = op := by
  have := op.isLt
  apply BitVec.eq_of_toNat_eq
  rw [packAddr_toNat, nibA, fieldNNN, toNat_field, toNat_field]; omega

theorem packRegImm_fields (op : Word) : packRegImm (nibA op) (fieldX op) (fieldNN op) = op := by
  have := op.isLt
  have hx : (fieldX op).val = op.toNat / 2 ^ 8 % 2 ^ 4 := toNat_field op 8 4
  apply BitVec.eq_of_toNat_eq
  rw [packRegImm_toNat, hx, nibA, fieldNN, toNat_field, toNat_field]; omega

theorem packRegReg_fields (op : Word) : packRegReg (nibA op) (fieldX op) (fieldY op) (nibD op) = op := by
  have := op.isLt
  have hx : (fieldX op).val = op.toNat / 2 ^ 8 % 2 ^ 4 := toNat_field op 8 4
  have hy : (fieldY op).val = op.toNat / 2 ^ 4 % 2 ^ 4 := toNat_field op 4 4
  apply BitVec.eq_of_toNat_eq
  rw [packRegReg_toNat, hx, hy, nibA, nibD, toNat_field, toNat_field]; omega

theorem packAddr_of_class {op : Word} {a : Nibble} (ha : nibA op = a) : packAddr a (fieldNNN op) = op :=
  ha ▸ packAddr_fields op

theorem packRegImm_of_class {op : Word} {a : Nibble} (ha : nibA op = a) :
    packRegImm a (fieldX op) (fieldNN op) = op :=
  ha ▸ packRegImm_fields op

theorem packRegImm_of_class_imm {op : Word} {a : Nibble} {nn : Byte} (ha : nibA op = a) (hn : fieldNN op = nn) :
    packRegImm a (fieldX op) nn = op :=
  hn ▸ packRegImm_of_class ha

theorem packRegReg_of_class {op : Word} {a : Nibble} (ha : nibA op = a) :
    packRegReg a (fieldX op) (fieldY op) (nibD op) = op :=
  ha ▸ packRegReg_fields op

theorem packRegReg_of_class_nib {op : Word} {a d : Nibble} (ha : nibA op = a) (hd : nibD op = d) :
    packRegReg a (fieldX op) (fieldY op) d = op :=
  hd ▸ packRegReg_of_class ha

/-! ### The decoder's two answers -/

/-- What a decoder may answer for a word: an instruction whose word it is, or a rejection as unmapped (R78). -/
def AnswersFor (op : Word) (r : Except DecodeError Instr) : Prop :=
  (∃ i, r = .ok i ∧ encode i = op) ∨ r = .error (.unmapped op)

theorem AnswersFor.ok {op : Word} {i : Instr} (h : encode i = op) : AnswersFor op (.ok i) := .inl ⟨i, rfl, h⟩

theorem AnswersFor.unmapped (op : Word) : AnswersFor op (.error (.unmapped op)) := .inr rfl

theorem decodeClass0_answers (op : Word) : AnswersFor op (decodeClass0 op) := by
  unfold decodeClass0
  split_ifs with hcls hret
  · exact .ok hcls.symm
  · exact .ok hret.symm
  · exact .unmapped op

theorem decodeClass8_answers {op : Word} (ha : nibA op = 0x8) : AnswersFor op (decodeClass8 op) := by
  unfold decodeClass8
  split
  case h_10 => exact .unmapped op
  all_goals exact .ok (packRegReg_of_class_nib ha (BitVec.eq_of_toNat_eq ‹(nibD op).toNat = _›))

theorem decodeClassE_answers {op : Word} (ha : nibA op = 0xE) : AnswersFor op (decodeClassE op) := by
  unfold decodeClassE
  split_ifs
  case neg => exact .unmapped op
  all_goals exact .ok (packRegImm_of_class_imm ha ‹fieldNN op = _›)

theorem decodeClassF_answers {op : Word} (ha : nibA op = 0xF) : AnswersFor op (decodeClassF op) := by
  unfold decodeClassF
  split_ifs
  case neg => exact .unmapped op
  all_goals exact .ok (packRegImm_of_class_imm ha ‹fieldNN op = _›)

/-- A class whose only row also fixes the last nibble at zero (`5XY0`, `9XY0`). -/
theorem ite_nibD_answers {op : Word} {i : Instr} (h : nibD op = 0 → encode i = op) :
    AnswersFor op (if nibD op = 0 then .ok i else .error (.unmapped op)) := by
  split_ifs with hd
  · exact .ok (h hd)
  · exact .unmapped op

theorem decodeWord_answers (op : Word) : AnswersFor op (decodeWord op) := by
  unfold decodeWord
  split <;> rename_i ha
  case h_1 => exact decodeClass0_answers op
  case h_9 => exact decodeClass8_answers (BitVec.eq_of_toNat_eq ha)
  case h_15 => exact decodeClassE_answers (BitVec.eq_of_toNat_eq ha)
  case h_16 => exact decodeClassF_answers (BitVec.eq_of_toNat_eq ha)
  case h_17 => exact .unmapped op
  case h_6 | h_10 => exact ite_nibD_answers (packRegReg_of_class_nib (BitVec.eq_of_toNat_eq ha))
  case h_2 | h_3 | h_11 | h_12 => exact .ok (packAddr_of_class (BitVec.eq_of_toNat_eq ha))
  case h_4 | h_5 | h_7 | h_8 | h_13 => exact .ok (packRegImm_of_class (BitVec.eq_of_toNat_eq ha))
  case h_14 => exact .ok (packRegReg_of_class (BitVec.eq_of_toNat_eq ha))

/-- A word is the encoding of what it decodes to. -/
theorem encode_of_decodeWord {op : Word} {i : Instr} (h : decodeWord op = .ok i) : encode i = op := by
  obtain ⟨j, hj, he⟩ | hu := decodeWord_answers op
  · rw [h] at hj; cases hj; exact he
  · rw [h] at hu; cases hu

/-! ### What a row says of a word's fields -/

theorem OpcodeRow.fits_iff (r : OpcodeRow) (op : Word) : r.fits op = true ↔ op &&& r.mask = r.mtch := beq_iff_eq

theorem eq_of_and_word {op m : Word} (h : op &&& 0xFFFF = m) : op = m := (BitVec.and_allOnes (x := op)).symm.trans h

theorem nibA_of_and_class {op m : Word} (h : op &&& 0xF000 = m) : nibA op = nibA m := by
  rw [← h, ← packAddr_fields op, packAddr_and, nibA_packAddr, nibA_packAddr]

theorem fields_of_and_regReg {op m : Word} (h : op &&& 0xF00F = m) : nibA op = nibA m ∧ nibD op = nibD m := by
  rw [← h, ← packRegReg_fields op, packRegReg_and]; simp

theorem fields_of_and_regImm {op m : Word} (h : op &&& 0xF0FF = m) : nibA op = nibA m ∧ fieldNN op = fieldNN m := by
  rw [← h, ← packRegImm_fields op, packRegImm_and]; simp

/-- Every encoding fits its row: the lemmas of Laws/PerInstr.lean, together. -/
theorem encode_fits_row (i : Instr) : i.row ∈ opcodeMap ∧ i.row.fits (encode i) = true := by
  open Laws.RowFit in
  exact i.casesOn (motive := Statement) cls ret jp call seImm sneImm seReg ldImm addImm ldReg orReg andReg xorReg addReg
    subReg shr subnReg shl sneReg ldI jpV0 rnd drw skp sknp ldVxDT ldVxK ldDTVx addI ldF ldB dump load

/-- A word that fits an instruction's row decodes to an instruction of that row. -/
theorem decodeWord_row_of_fits {op : Word} (i : Instr) (h : i.row.fits op = true) :
    (decodeWord op).map Instr.row = .ok i.row := by
  rw [OpcodeRow.fits_iff] at h
  cases i <;> dsimp only [Instr.row] at h
  case cls | ret => rw [eq_of_and_word h]; rfl
  case jp | call | seImm | sneImm | ldImm | addImm | ldI | jpV0 | rnd | drw =>
    rw [decodeWord, nibA_of_and_class h]; rfl
  case seReg | sneReg =>
    obtain ⟨ha, hd⟩ := fields_of_and_regReg h
    rw [decodeWord, ha, hd]; rfl
  case ldReg | orReg | andReg | xorReg | addReg | subReg | shr | subnReg | shl =>
    obtain ⟨ha, hd⟩ := fields_of_and_regReg h
    rw [decodeWord, ha, decodeClass8, hd]; rfl
  case skp | sknp =>
    obtain ⟨ha, hn⟩ := fields_of_and_regImm h
    rw [decodeWord, ha, decodeClassE, hn]; rfl
  case ldVxDT | ldVxK | ldDTVx | addI | ldF | ldB | dump | load =>
    obtain ⟨ha, hn⟩ := fields_of_and_regImm h
    rw [decodeWord, ha, decodeClassF, hn]; rfl

theorem decodeWord_row_of_mem {op : Word} {r : OpcodeRow} (hr : r ∈ opcodeMap) (h : r.fits op = true) :
    (decodeWord op).map Instr.row = .ok r := by
  obtain ⟨i, -, rfl⟩ := List.mem_map.mp hr
  exact decodeWord_row_of_fits i h

/-! ### The obligation's four clauses -/

theorem row_fits_of_decodeWord {op : Word} {i : Instr} (h : decodeWord op = .ok i) :
    i.row ∈ opcodeMap ∧ i.row.fits op = true :=
  encode_of_decodeWord h ▸ encode_fits_row i

theorem wordMapped_iff (op : Word) : wordMapped op = true ↔ ∃ r ∈ opcodeMap, r.fits op = true := List.any_eq_true

theorem decodeWord_of_mapped {op : Word} (h : wordMapped op = true) : ∃ i, decodeWord op = .ok i := by
  obtain ⟨r, hr, hf⟩ := (wordMapped_iff op).mp h
  have hrow := decodeWord_row_of_mem hr hf
  cases hd : decodeWord op with
  | ok i => exact ⟨i, rfl⟩
  | error e => rw [hd] at hrow; cases hrow

theorem decodeWord_of_not_mapped {op : Word} (h : wordMapped op = false) : decodeWord op = .error (.unmapped op) := by
  obtain ⟨i, hi, -⟩ | hu := decodeWord_answers op
  · obtain ⟨hm, hf⟩ := row_fits_of_decodeWord hi
    exact absurd ((wordMapped_iff op).mpr ⟨i.row, hm, hf⟩) (by simp [h])
  · exact hu

theorem row_unique_of_fits {op : Word} {r₁ r₂ : OpcodeRow} (h₁ : r₁ ∈ opcodeMap) (h₂ : r₂ ∈ opcodeMap)
    (f₁ : r₁.fits op = true) (f₂ : r₂.fits op = true) : r₁ = r₂ :=
  Except.ok.inj ((decodeWord_row_of_mem h₁ f₁).symm.trans (decodeWord_row_of_mem h₂ f₂))

/-- Settles O48: a row that the word fits fixes the fields the decoder branches on, so it is the row of what the word
decodes to, which gives existence and uniqueness; what the word decodes to has it as its encoding, which fits. -/
theorem decodeAgreesWithTheOpcodeMap : Obligations.DecodeAgreesWithTheOpcodeMap := by
  unfold Obligations.DecodeAgreesWithTheOpcodeMap
  exact fun op => ⟨fun _ => row_fits_of_decodeWord, decodeWord_of_mapped, decodeWord_of_not_mapped,
    fun _ h₁ _ h₂ => row_unique_of_fits h₁ h₂⟩

end Sys2Proof

/-! PROOFS. The control-flow instructions (40_control_flow R100 to R108). Each frame is built update by update, by one
rule per update; the four skips share one lemma, and each instruction that can fault has an equation per case. -/

namespace Sys2Proof.Machine

/-! ### What an update adds to a frame -/

section

variable {may : Piece → Prop} {s t : State}

theorem OnlyChanges.setPc (h : OnlyChanges may s t) (hpc : may .pc) (w : Word) : OnlyChanges may s (t.setPc w) := by
  intro p hp
  cases p
  case pc => exact absurd hpc hp
  all_goals exact h _ hp

theorem OnlyChanges.setStack (h : OnlyChanges may s t) (hstack : may .stack) (st : List Word) :
    OnlyChanges may s (t.setStack st) := by
  intro p hp
  cases p
  case stack => exact absurd hstack hp
  all_goals exact h _ hp

theorem OnlyChanges.setFb (h : OnlyChanges may s t) (hcell : ∀ y x, may (.cell y x)) (fb : Framebuffer) :
    OnlyChanges may s (t.setFb fb) := by
  intro p hp
  cases p
  case cell y x => exact absurd (hcell y x) hp
  all_goals exact h _ hp

theorem setPc_onlyChanges (s : State) (w : Word) : OnlyChanges (among [.pc]) s (s.setPc w) :=
  (OnlyChanges.refl _ s).setPc (.head _) w

/-- A push or a pop followed by a jump. -/
theorem setStack_setPc_onlyChanges (s : State) (st : List Word) (w : Word) :
    OnlyChanges (among [.pc, .stack]) s ((s.setStack st).setPc w) :=
  ((OnlyChanges.refl _ s).setStack (.tail _ (.head _)) st).setPc (.head _) w

end

/-! ### The cases of return, call and skip -/

theorem exec_ret_of_nil {s : State} (h : s.stack = []) :
    exec .ret s = .next (s.raise .stackUnderflow (encode .ret) 0) := by
  simp only [exec, execRet, h]

theorem exec_ret_of_cons {s : State} {top : Word} {rest : List Word} (h : s.stack = top :: rest) :
    exec .ret s = .next ((s.setStack rest).setPc top) := by
  simp only [exec, execRet, h]

theorem State.stackFull_iff (s : State) : s.stackFull = true ↔ s.config.stackDepth ≤ s.sp := decide_eq_true_iff

theorem exec_call_of_full {nnn : Addr12} {s : State} (h : s.config.stackDepth ≤ s.sp) :
    exec (.call nnn) s = .next (s.raise .stackOverflow (encode (.call nnn)) s.returnAddr.toNat) :=
  if_pos (s.stackFull_iff.mpr h)

theorem exec_call_of_lt {nnn : Addr12} {s : State} (h : s.sp < s.config.stackDepth) :
    exec (.call nnn) s = .next ((s.setStack (s.returnAddr :: s.stack)).setPc (zextAddr nnn)) :=
  if_neg fun hf => absurd (s.stackFull_iff.mp hf) (Nat.not_le.mpr h)

/-- An instruction that skips on a test of `P` puts `pc0 + 4` into pc if `P` holds, else `pc0 + 2` (R113). -/
theorem exec_of_skipIf {i : Instr} {s : State} {cond : Bool} {P : Prop} [Decidable P]
    (h : exec i s = .next (s.skipIf cond)) (hcond : cond = true ↔ P) :
    ∃ t, exec i s = .next t ∧ t.pc = (if P then s.pc + 4 else s.pc + 2) ∧ OnlyChanges (among [.pc]) s t := by
  rw [State.skipIf_eq] at h
  exact ⟨_, h, by simp only [State.setPc_pc, hcond], setPc_onlyChanges s _⟩

/-! ### The obligations -/

/-- Settles O1: the blank grid is stored and pc advanced, each within the frame. -/
theorem clearScreenBlanksTheGrid : Obligations.ClearScreenBlanksTheGrid := by
  unfold Obligations.ClearScreenBlanksTheGrid
  exact fun s => ⟨(s.setFb blankFramebuffer).advance, rfl, cell_blankFramebuffer, rfl,
    ((OnlyChanges.refl _ s).setFb (fun y x => .inr ⟨y, x, rfl⟩) _).setPc (.inl rfl) _⟩

/-- Settles O2: a nonempty stack is popped into pc, an empty one raises the fault. -/
theorem returnPopsTheStack : Obligations.ReturnPopsTheStack := by
  unfold Obligations.ReturnPopsTheStack
  refine fun s => ⟨fun top rest hs => ?_, fun hs => ?_⟩
  · exact ⟨_, exec_ret_of_cons hs, rfl, rfl, setStack_setPc_onlyChanges s rest top⟩
  · exact ⟨_, exec_ret_of_nil hs, s.raise_tookFault .stackUnderflow 0x00EE 0 (by decide)⟩

/-- Settles O3: the zero-extended address is the same number. -/
theorem jumpSetsPc : Obligations.JumpSetsPc := by
  unfold Obligations.JumpSetsPc
  exact fun nnn s => ⟨s.setPc (zextAddr nnn), rfl, toNat_zextAddr nnn, setPc_onlyChanges s _⟩

/-- Settles O4: below the depth the return address is pushed, at the depth it is the fault's info, which 17 bits
hold. -/
theorem callPushesTheReturnAddress : Obligations.CallPushesTheReturnAddress := by
  unfold Obligations.CallPushesTheReturnAddress
  refine fun nnn s => ⟨fun hlt => ?_, fun hfull => ?_⟩
  · exact ⟨_, exec_call_of_lt hlt, rfl, toNat_zextAddr nnn, setStack_setPc_onlyChanges s _ _⟩
  · have hinfo : s.returnAddr.toNat < 2 ^ 17 := s.returnAddr.isLt.trans (by decide)
    exact ⟨_, exec_call_of_full hfull.ge, s.raise_tookFault .stackOverflow _ _ hinfo⟩

/-- Settles O5: each of the four is `skipIf` on the test that decides its condition. -/
theorem skipsCompareAndAdvance : Obligations.SkipsCompareAndAdvance := by
  unfold Obligations.SkipsCompareAndAdvance
  exact fun x y nn s => ⟨exec_of_skipIf rfl beq_iff_eq, exec_of_skipIf rfl bne_iff_ne,
    exec_of_skipIf rfl beq_iff_eq, exec_of_skipIf rfl bne_iff_ne⟩

/-- Settles O6: `NNN + V[0]` is at most 0x10FE, so 16 bits hold it whole. -/
theorem indirectJumpIsNotReduced : Obligations.IndirectJumpIsNotReduced := by
  unfold Obligations.IndirectJumpIsNotReduced
  exact fun nnn s => ⟨s.setPc (indirectTarget s nnn), rfl, toNat_indirectTarget s nnn, setPc_onlyChanges s _⟩

end Sys2Proof.Machine

/-! PROOFS. The register operations (41_register_ops R120 to R130). The operations without a flag all end in
`State.finishV`, those with one in `State.finishFlag`: what each of the two leaves is said once, and an instruction adds
only what its result and its flag come to. -/

namespace Sys2Proof.Machine

/-! ### What the two endings leave -/

theorem OnlyChanges.setV {may : Piece → Prop} {s t : State} {q : RegIdx} (h : OnlyChanges may s t) (hv : may (.v q))
    (b : Byte) : OnlyChanges may s (t.setV q b) := by
  intro p hp
  cases p
  case v r =>
    have hne : r ≠ q := fun hr => hp (hr ▸ hv)
    exact (t.getV_setV q r b).trans ((if_neg hne).trans (h _ hp))
  all_goals exact h _ hp

section

variable (s : State) (x : RegIdx) (b : Byte)

@[simp] theorem State.getV_finishV : (s.finishV x b).getV x = b := by simp [State.finishV]

theorem State.finishV_onlyChanges : OnlyChanges (among [.pc, .v x]) s (s.finishV x b) :=
  ((OnlyChanges.refl _ s).setV (.tail _ (.head _)) b).setPc (.head _) _

/-- The flag is written last, so it stands in VF even when `X` is VF (10_state R22). -/
@[simp] theorem State.getV_finishFlag_flagReg (f : Bool) : (s.finishFlag x b f).getV 15 = flagByte f := by
  simp [State.finishFlag, State.getV_setResultFlag]

theorem State.getV_finishFlag_of_ne (f : Bool) (hx : x ≠ 15) : (s.finishFlag x b f).getV x = b := by
  simp [State.finishFlag, State.getV_setResultFlag, hx]

theorem State.finishFlag_onlyChanges (f : Bool) : OnlyChanges (among [.pc, .v x, .v 15]) s (s.finishFlag x b f) :=
  (((OnlyChanges.refl _ s).setV (.tail _ (.head _)) b).setV (.tail _ (.tail _ (.head _))) _).setPc (.head _) _

end

/-! ### The flags -/

theorem flagByte_of_iff {f : Bool} {P : Prop} (h : f = true ↔ P) :
    (P → flagByte f = 1) ∧ (¬ P → flagByte f = 0) :=
  ⟨fun hP => if_pos (h.mpr hP), fun hP => if_neg (mt h.mp hP)⟩

theorem carryOut_iff (a b : Byte) : carryOut a b = true ↔ 255 < a.toNat + b.toNat := decide_eq_true_iff

theorem noBorrow_iff (m b : Byte) : noBorrow m b = true ↔ b.toNat ≤ m.toNat := decide_eq_true_iff

/-- An instruction that ends in `finishFlag` writes the number of its result byte, and the flag that its bit decides. -/
theorem writesResultThenFlag_of_finishFlag {i : Instr} {x : RegIdx} {b : Byte} {f : Bool} {result : Nat} {flag : Prop}
    {s : State} (h : exec i s = .next (s.finishFlag x b f)) (hb : b.toNat = result) (hf : f = true ↔ flag) :
    WritesResultThenFlag i x result flag s := by
  have hVF : (s.finishFlag x b f).getV 15 = flagByte f := s.getV_finishFlag_flagReg x b f
  obtain ⟨hset, hclear⟩ := flagByte_of_iff hf
  refine ⟨_, h, fun hx => ?_, fun hP => hVF.trans (hset hP), fun hP => hVF.trans (hclear hP), rfl,
    s.finishFlag_onlyChanges x b f⟩
  rw [s.getV_finishFlag_of_ne x b f hx, hb]

/-! ### The obligations -/

/-- Settles O8: each of the three ends in `finishV`, the sum being the one of `addBytes`. -/
theorem loadAddCopyWriteOneRegister : Obligations.LoadAddCopyWriteOneRegister := by
  unfold Obligations.LoadAddCopyWriteOneRegister
  refine fun x y nn s => ⟨⟨_, rfl, s.getV_finishV x nn, rfl, s.finishV_onlyChanges x nn⟩,
    ⟨_, rfl, ?_, rfl, s.finishV_onlyChanges x _⟩,
    ⟨_, rfl, s.getV_finishV x (s.getV y), rfl, s.finishV_onlyChanges x (s.getV y)⟩⟩
  rw [s.getV_finishV x, toNat_addBytes]

/-- Settles O9: each of the three ends in `finishV`, with a result whose bits are those of the bit vector operation. -/
theorem logicActsBitByBit : Obligations.LogicActsBitByBit := by
  unfold Obligations.LogicActsBitByBit
  refine fun x y s => ⟨⟨_, rfl, fun b => ?_, rfl, s.finishV_onlyChanges x _⟩,
    ⟨_, rfl, fun b => ?_, rfl, s.finishV_onlyChanges x _⟩, ⟨_, rfl, fun b => ?_, rfl, s.finishV_onlyChanges x _⟩⟩
  · rw [s.getV_finishV x, BitVec.getLsbD_or]
  · rw [s.getV_finishV x, BitVec.getLsbD_and]
  · rw [s.getV_finishV x, BitVec.getLsbD_xor]

/-- Settles O10: the result is `addBytes`, the flag `carryOut`. -/
theorem addWritesSumThenCarry : Obligations.AddWritesSumThenCarry := by
  unfold Obligations.AddWritesSumThenCarry
  exact fun _ _ _ => writesResultThenFlag_of_finishFlag rfl (toNat_addBytes _ _) (carryOut_iff _ _)

/-- Settles O11: the result is `subBytes`, the flag `noBorrow`, with the operands in either order. -/
theorem subtractsWriteDifferenceThenNoBorrow : Obligations.SubtractsWriteDifferenceThenNoBorrow := by
  unfold Obligations.SubtractsWriteDifferenceThenNoBorrow
  exact fun _ _ _ => ⟨writesResultThenFlag_of_finishFlag rfl (toNat_subBytes _ _) (noBorrow_iff _ _),
    writesResultThenFlag_of_finishFlag rfl (toNat_subBytes _ _) (noBorrow_iff _ _)⟩

/-- Settles O12: the results are `halve` and `double`, the flags the bit that each shifts out. -/
theorem shiftsWriteResultThenBitShiftedOut : Obligations.ShiftsWriteResultThenBitShiftedOut := by
  unfold Obligations.ShiftsWriteResultThenBitShiftedOut
  exact fun _ _ _ => ⟨writesResultThenFlag_of_finishFlag rfl (toNat_halve _) (shiftedOutLow_iff _),
    writesResultThenFlag_of_finishFlag rfl (toNat_double _) (shiftedOutHigh_iff _)⟩

end Sys2Proof.Machine

/-! PROOFS. The index-register instructions (42_addressing R140 to R142). All three end in a write of `I` and the
default advance: what that ending leaves is said once. What a digit above 15 leaves is said of the check itself,
whatever the instruction. -/

namespace Sys2Proof.Machine

/-! ### What a write of the index register leaves -/

theorem OnlyChanges.setIndex {may : Piece → Prop} {s t : State} (h : OnlyChanges may s t) (hindex : may .index)
    (w : Word) : OnlyChanges may s (t.setIndex w) := by
  intro p hp
  cases p
  case index => exact absurd hindex hp
  all_goals exact h _ hp

theorem setIndex_advance_onlyChanges (s : State) (w : Word) :
    OnlyChanges (among [.pc, .index]) s (s.setIndex w).advance :=
  ((OnlyChanges.refl _ s).setIndex (.tail _ (.head _)) w).setPc (.head _) _

/-- An instruction that puts `w` into `I` and advances leaves the number of `w` there. -/
theorem exec_of_setIndex_advance {i : Instr} {s : State} {w : Word} {n : Nat}
    (h : exec i s = .next (s.setIndex w).advance) (hw : w.toNat = n) :
    ∃ t, exec i s = .next t ∧ t.index.toNat = n ∧ t.pc = s.pc + 2 ∧ OnlyChanges (among [.pc, .index]) s t :=
  ⟨_, h, hw, rfl, setIndex_advance_onlyChanges s w⟩

/-! ### The check on a digit, and the two cases of `FX29` -/

/-- A digit above 15 is a fault with the digit as its info, which 17 bits hold. -/
theorem State.guardDigit_tookFault (s : State) (op : Word) (b : Byte) (done : State) (h : 15 < b.toNat) :
    TookFault s .operandOutOfRange op b.toNat (s.guardDigit op b done) := by
  have hinfo : b.toNat < 2 ^ 17 := b.isLt.trans (by decide)
  rw [s.guardDigit_fault op b done h]
  exact s.raise_tookFault .operandOutOfRange op b.toNat hinfo

theorem exec_ldF_of_le {x : RegIdx} {s : State} (h : (s.getV x).toNat ≤ 15) :
    exec (.ldF x) s = .next (s.setIndex (glyphAddr s.config (s.getV x))).advance :=
  congrArg Host.Outcome.next (s.guardDigit_ok (encode (.ldF x)) (s.getV x) _ h)

/-! ### The obligations -/

/-- Settles O13: the zero-extended address is the same number, and the sum is the one of `indexPlus`. -/
theorem indexLoadsAndWraps : Obligations.IndexLoadsAndWraps := by
  unfold Obligations.IndexLoadsAndWraps
  exact fun nnn x s => ⟨exec_of_setIndex_advance rfl (toNat_zextAddr nnn),
    exec_of_setIndex_advance rfl (toNat_indexPlus s x)⟩

/-- Settles O14: a digit up to 15 passes the check and `I` takes the glyph's address, a larger one raises the fault. -/
theorem fontPointerOrOperandFault : Obligations.FontPointerOrOperandFault := by
  unfold Obligations.FontPointerOrOperandFault
  refine fun x s => ⟨fun hle => ?_, fun hgt => ?_⟩
  · exact exec_of_setIndex_advance (exec_ldF_of_le hle) (toNat_glyphAddr s.config (s.getV x) hle)
  · exact ⟨_, rfl, s.guardDigit_tookFault _ _ _ hgt⟩

end Sys2Proof.Machine

/-! PROOFS. The sprite draw (44_draw R155, R158). What the loops come to is `drawSprite_spec`; here stands what storing
their result leaves, and the two cases of the check on the sprite's bytes. What an access above 0xFFF leaves is said of
the check itself, whatever the instruction. -/

namespace Sys2Proof.Machine

/-! ### What storing a finished draw leaves -/

section

variable (s : State) (d : DrawState)

@[simp] theorem State.cell_setDrawn (cy : Fin fbHeight) (cx : Fin fbWidth) :
    (s.setDrawn d).cell cy cx = d.fb.cell cy cx := rfl

@[simp] theorem State.getV_setDrawn_flagReg : (s.setDrawn d).getV 15 = flagByte d.collided := by
  simp [State.setDrawn, State.setFlag]

theorem State.setDrawn_advance_onlyChanges :
    OnlyChanges (fun p => p = .pc ∨ p = .v 15 ∨ ∃ cy cx, p = .cell cy cx) s (s.setDrawn d).advance :=
  (((OnlyChanges.refl _ s).setFb (fun cy cx => .inr (.inr ⟨cy, cx, rfl⟩)) d.fb).setV (.inr (.inl rfl)) _).setPc
    (.inl rfl) _

end

/-! ### The check on an access, and the two cases of `DXYN` -/

/-- An access of at most 16 bytes that reaches above 0xFFF is a fault with its highest address as the info, which 17
bits hold. -/
theorem State.guardAccess_tookFault (s : State) (op : Word) (n : Nat) (done : State) (hn : n ≤ 16) (h : 0 < n)
    (h' : 0xFFF < s.index.toNat + n - 1) :
    TookFault s .addressOutOfRange op (s.index.toNat + n - 1) (s.guardAccess op s.base n done) := by
  have hinfo : s.index.toNat + n - 1 < 2 ^ 17 := by have := s.index.isLt; omega
  rw [s.guardAccess_fault op s.base n done h h']
  exact s.raise_tookFault .addressOutOfRange op _ hinfo

theorem exec_drw_of_le {x y : RegIdx} {n : Nibble} {s : State}
    (h : n.toNat = 0 ∨ s.index.toNat + n.toNat - 1 ≤ 0xFFF) :
    exec (.drw x y n) s = .next
      (s.setDrawn (drawSprite s.fb (s.getV x).toNat (s.getV y).toNat (s.readBytes s.base n.toNat))).advance :=
  congrArg Host.Outcome.next (s.guardAccess_ok (encode (.drw x y n)) s.base n.toNat _ h)

/-! ### The obligation -/

/-- Settles O16: a sprite whose bytes all lie in memory is XORed in, with the collision as the flag, as
`drawSprite_spec` says; one that reaches above 0xFFF raises the fault. -/
theorem drawXorsTheSpriteAndFlagsCollision : Obligations.DrawXorsTheSpriteAndFlagsCollision := by
  unfold Obligations.DrawXorsTheSpriteAndFlagsCollision
  intro x y n s
  have hrows : n.toNat ≤ 15 := Nat.le_of_lt_succ n.isLt
  refine ⟨fun hfits => ?_, fun hpos hover => ?_⟩
  · obtain ⟨hcells, hcollided⟩ := drawSprite_spec s (s.getV x).toNat (s.getV y).toNat n.toNat (by omega)
    obtain ⟨hset, hclear⟩ := flagByte_of_iff hcollided
    exact ⟨_, exec_drw_of_le hfits, fun cy cx => (s.cell_setDrawn _ cy cx).trans (hcells cy cx),
      fun h => (s.getV_setDrawn_flagReg _).trans (hset h), fun h => (s.getV_setDrawn_flagReg _).trans (hclear h), rfl,
      s.setDrawn_advance_onlyChanges _⟩
  · exact ⟨_, rfl, s.guardAccess_tookFault _ _ _ (by omega) hpos hover⟩

end Sys2Proof.Machine

/-! PROOFS. The keypad instructions (45_keypad R170 to R172). The two skips pass the check on a digit and then are skips
like the others; the key wait has an equation per answer of `current_key()`. -/

namespace Sys2Proof.Machine

/-! ### The cases of the key skips and of the key wait -/

section

variable {x : RegIdx} {s : State} {k : KeyIdx}

theorem State.guardDigit_of_eq_key (op : Word) (b : Byte) (done : State) (h : b.toNat = k.val) :
    s.guardDigit op b done = done :=
  s.guardDigit_ok op b done (h ▸ Nat.le_of_lt_succ k.isLt)

theorem exec_skp_of_eq_key (h : (s.getV x).toNat = k.val) : exec (.skp x) s = .next (s.skipIf (s.key k)) := by
  simp only [exec, execSkp, State.guardDigit_of_eq_key _ _ _ h, keyOfByte_eq _ k h]

theorem exec_sknp_of_eq_key (h : (s.getV x).toNat = k.val) : exec (.sknp x) s = .next (s.skipIf (!s.key k)) := by
  simp only [exec, execSknp, State.guardDigit_of_eq_key _ _ _ h, keyOfByte_eq _ k h]

/-- With no key, pc is written with its own value: the next state is the old one, whole. -/
theorem exec_ldVxK_of_none (h : s.currentKey = none) : exec (.ldVxK x) s = .next s := by
  simp only [exec, execLdVxK, h]
  rfl

theorem exec_ldVxK_of_some (h : s.currentKey = some k) : exec (.ldVxK x) s = .next (s.finishV x (byteOfKey k)) := by
  simp only [exec, execLdVxK, h, State.finishV]

end

/-! ### The obligations -/

/-- Settles O20: by the lemmas on `current_key()` it answers none, and the state stays, or the lowest key, and the
instruction ends in `finishV`. -/
theorem keyWaitTakesTheLowestKey : Obligations.KeyWaitTakesTheLowestKey := by
  unfold Obligations.KeyWaitTakesTheLowestKey
  refine fun x s => ⟨fun hnone => ?_, fun k hk hlowest => ?_⟩
  · exact ⟨s, exec_ldVxK_of_none (s.currentKey_none hnone), OnlyChanges.refl _ s⟩
  · refine ⟨_, exec_ldVxK_of_some (s.currentKey_lowest k hk hlowest), ?_, rfl, s.finishV_onlyChanges x _⟩
    rw [s.getV_finishV x, toNat_byteOfKey]

/-- Settles O19: a value that numbers a key passes the check, and each skip is `skipIf` on that key's slot or its
negation; a value above 15 raises the fault. -/
theorem keySkipsTestOneSlot : Obligations.KeySkipsTestOneSlot := by
  unfold Obligations.KeySkipsTestOneSlot
  refine fun x s => ⟨fun k hk => ?_, fun hgt => ?_⟩
  · exact ⟨exec_of_skipIf (exec_skp_of_eq_key hk) Iff.rfl,
      exec_of_skipIf (exec_sknp_of_eq_key hk) (iff_of_eq (Bool.not_eq_true' _))⟩
  · exact ⟨⟨_, rfl, s.guardDigit_tookFault _ _ _ hgt⟩, ⟨_, rfl, s.guardDigit_tookFault _ _ _ hgt⟩⟩

end Sys2Proof.Machine

/-! PROOFS. The timer instructions (46_timer R180, R181). The read ends in `State.finishV`, as the register operations do;
what a write of DT adds to a frame is said once, whatever writes it. -/

namespace Sys2Proof.Machine

/-! ### What a write of the delay timer leaves -/

theorem OnlyChanges.setDt {may : Piece → Prop} {s t : State} (h : OnlyChanges may s t) (hdt : may .dt) (b : Byte) :
    OnlyChanges may s (t.setDt b) := by
  intro p hp
  cases p
  case dt => exact absurd hdt hp
  all_goals exact h _ hp

theorem setDt_advance_onlyChanges (s : State) (b : Byte) : OnlyChanges (among [.pc, .dt]) s (s.setDt b).advance :=
  ((OnlyChanges.refl _ s).setDt (.tail _ (.head _)) b).setPc (.head _) _

/-! ### The obligation -/

/-- Settles O22: the read is `finishV` with the byte in DT, the write puts the register's byte into DT and advances. -/
theorem timerIsReadAndSet : Obligations.TimerIsReadAndSet := by
  unfold Obligations.TimerIsReadAndSet
  refine fun x s => ⟨?_, ?_⟩
  · exact ⟨_, rfl, s.getV_finishV x s.dt, rfl, s.finishV_onlyChanges x s.dt⟩
  · exact ⟨_, rfl, s.setDt_dt (s.getV x), rfl, setDt_advance_onlyChanges s (s.getV x)⟩

end Sys2Proof.Machine

/-! PROOFS. BCD and register block transfer (47_bcd_block R185 to R187). What a block store and a block load add to a
frame is said once; each instruction has an equation for the access that fits, and the access that does not is the
fault of the check, as in the sprite draw. -/

namespace Sys2Proof.Machine

/-! ### What a block transfer adds to a frame -/

section

variable {may : Piece → Prop} {s t : State}

theorem OnlyChanges.writeByte {a : Nat} (h : OnlyChanges may s t) (hbyte : may (.byte a)) (b : Byte) :
    OnlyChanges may s (t.writeByte a b) := by
  intro p hp
  cases p
  case byte c =>
    have hne : c ≠ a := fun hc => hp (hc ▸ hbyte)
    exact (t.readByte_writeByte a c b).trans ((if_neg hne).trans (h _ hp))
  all_goals exact h _ hp

theorem OnlyChanges.writeBytes {base : Nat} {bs : List Byte} (h : OnlyChanges may s t)
    (hbytes : ∀ k < bs.length, may (.byte (base + k))) : OnlyChanges may s (t.writeBytes base bs) := by
  induction bs generalizing t base with
  | nil => exact h
  | cons b rest ih =>
    refine ih (h.writeByte (hbytes 0 (Nat.succ_pos _)) b) fun k hk => ?_
    rw [Nat.add_right_comm]
    exact hbytes (k + 1) (Nat.succ_lt_succ hk)

theorem OnlyChanges.loadRegs {rs : List RegIdx} (h : OnlyChanges may s t) (hregs : ∀ r ∈ rs, may (.v r))
    (base : Nat) : OnlyChanges may s (t.loadRegs base rs) := by
  induction rs generalizing t with
  | nil => exact h
  | cons r rest ih =>
    exact ih (h.setV (hregs r (.head _)) _) fun q hq => hregs q (.tail _ hq)

end

/-! ### The pc, the bytes and the registers a transfer leaves -/

@[simp] theorem State.writeBytes_pc (s : State) (base : Nat) (bs : List Byte) : (s.writeBytes base bs).pc = s.pc := by
  obtain ⟨m, hm⟩ := s.writeBytes_mem base bs
  rw [hm]

@[simp] theorem State.loadRegs_pc (s : State) (base : Nat) (rs : List RegIdx) : (s.loadRegs base rs).pc = s.pc := by
  obtain ⟨v, hv⟩ := s.loadRegs_v base rs
  rw [hv]

theorem State.readByte_writeBytes_add (s : State) (base : Nat) {bs : List Byte} {k : Nat} {b : Byte}
    (h : bs[k]? = some b) : (s.writeBytes base bs).readByte (base + k) = b := by
  have hk : k < bs.length := (List.getElem?_eq_some_iff.mp h).1
  rw [s.readByte_writeBytes, if_pos (by omega), Nat.add_sub_cancel_left, List.getD_eq_getElem?_getD, h,
    Option.getD_some]

theorem toNat_trunc8_of_lt {n : Nat} (h : n < 256) : (trunc8 n).toNat = n := by
  rw [trunc8, BitVec.toNat_ofNat, Nat.mod_eq_of_lt h]

/-- A stored byte reads back as the number it was made of, if a byte holds that. -/
theorem State.toNat_readByte_stored (s : State) (base : Nat) {bs : List Byte} {k n : Nat}
    (hk : bs[k]? = some (trunc8 n)) (hn : n < 256) : ((s.writeBytes base bs).readByte (base + k)).toNat = n := by
  rw [s.readByte_writeBytes_add base hk, toNat_trunc8_of_lt hn]

/-- A dump reads back as the registers, each at its own number's place. -/
theorem State.readByte_dumped (s : State) (x r : RegIdx) (base : Nat) (h : r ≤ x) :
    (s.writeBytes base ((regsUpTo x).map s.getV)).readByte (base + r.val) = s.getV r := by
  apply s.readByte_writeBytes_add base
  rw [List.getElem?_map, getElem?_regsUpTo x r h, Option.map_some]

/-- A dump changes no byte but those it stores, one for each register up to `X`. -/
theorem State.dumped_onlyChanges (s : State) (x : RegIdx) (base : Nat) :
    OnlyChanges (fun p => p = .pc ∨ ∃ r : RegIdx, r ≤ x ∧ p = .byte (base + r.val)) s
      (s.writeBytes base ((regsUpTo x).map s.getV)).advance := by
  refine ((OnlyChanges.refl _ s).writeBytes fun k hk => ?_).setPc (.inl rfl) _
  rw [List.length_map, length_regsUpTo] at hk
  exact .inr ⟨⟨k, by omega⟩, Nat.le_of_lt_succ hk, rfl⟩

/-- The three digits change no byte but the three they are stored in. -/
theorem State.bcdStored_onlyChanges (s : State) (base : Nat) (b : Byte) :
    OnlyChanges (among [.pc, .byte base, .byte (base + 1), .byte (base + 2)]) s
      (s.writeBytes base (bcdDigits b)).advance := by
  refine ((OnlyChanges.refl _ s).writeBytes fun k hk => ?_).setPc (.head _) _
  have hk : k < 3 := hk
  interval_cases k
  · exact .tail _ (.head _)
  · exact .tail _ (.tail _ (.head _))
  · exact .tail _ (.tail _ (.tail _ (.head _)))

theorem State.getV_loaded (s : State) (x r : RegIdx) (base : Nat) (h : r ≤ x) :
    (s.loadRegs base (regsUpTo x)).getV r = s.readByte (base + r.val) := by
  rw [s.getV_loadRegs, if_pos ((mem_regsUpTo x r).mpr h)]

/-- A load changes no register above `X`, and no memory. -/
theorem State.loaded_onlyChanges (s : State) (x : RegIdx) (base : Nat) :
    OnlyChanges (fun p => p = .pc ∨ ∃ r : RegIdx, r ≤ x ∧ p = .v r) s
      (s.loadRegs base (regsUpTo x)).advance :=
  ((OnlyChanges.refl _ s).loadRegs (fun r hr => .inr ⟨r, (mem_regsUpTo x r).mp hr, rfl⟩) base).setPc (.inl rfl) _

/-! ### The three instructions when the access fits -/

section

variable {x : RegIdx} {s : State}

theorem exec_ldB_of_le (h : s.index.toNat + 2 ≤ 0xFFF) :
    exec (.ldB x) s = .next (s.writeBytes s.index.toNat (bcdDigits (s.getV x))).advance :=
  congrArg Host.Outcome.next (s.guardAccess_ok (encode (.ldB x)) s.base 3 _ (.inr h))

theorem exec_dump_of_le (h : s.index.toNat + x.val ≤ 0xFFF) :
    exec (.dump x) s = .next (s.writeBytes s.index.toNat ((regsUpTo x).map s.getV)).advance :=
  congrArg Host.Outcome.next (s.guardAccess_ok (encode (.dump x)) s.base (blockLength x) _ (.inr h))

theorem exec_load_of_le (h : s.index.toNat + x.val ≤ 0xFFF) :
    exec (.load x) s = .next (s.loadRegs s.index.toNat (regsUpTo x)).advance :=
  congrArg Host.Outcome.next (s.guardAccess_ok (encode (.load x)) s.base (blockLength x) _ (.inr h))

end

/-- The highest address of a block of `X + 1` bytes is `I + X`, the info of its fault. -/
theorem State.guardBlock_tookFault (s : State) (op : Word) (x : RegIdx) (done : State)
    (h : 0xFFF < s.index.toNat + x.val) :
    TookFault s .addressOutOfRange op (s.index.toNat + x.val) (s.guardAccess op s.base (blockLength x) done) :=
  s.guardAccess_tookFault op (blockLength x) done x.isLt (Nat.succ_pos _) h

/-! ### The obligations -/

/-- Settles O23: the three digits are read back from the store of the list `bcdDigits`, each at its place; an access
above 0xFFF raises the fault. -/
theorem bcdStoresThreeDigits : Obligations.BcdStoresThreeDigits := by
  unfold Obligations.BcdStoresThreeDigits
  refine fun x s => ⟨fun hfits => ?_, fun hover => ?_⟩
  · have hx : (s.getV x).toNat < 256 := (s.getV x).isLt
    exact ⟨_, exec_ldB_of_le hfits, s.toNat_readByte_stored _ (k := 0) rfl (by omega),
      s.toNat_readByte_stored _ (k := 1) rfl (by omega), s.toNat_readByte_stored _ (k := 2) rfl (by omega),
      by simp, s.bcdStored_onlyChanges _ _⟩
  · exact ⟨_, rfl, s.guardAccess_tookFault _ 3 _ (by omega) (by omega) hover⟩

/-- Settles O24: the bytes are the store of the registers up to `X` in order; an access above 0xFFF raises the
fault. -/
theorem dumpStoresTheRegisters : Obligations.DumpStoresTheRegisters := by
  unfold Obligations.DumpStoresTheRegisters
  refine fun x s => ⟨fun hfits => ?_, fun hover => ?_⟩
  · exact ⟨_, exec_dump_of_le hfits, fun r hr => s.readByte_dumped x r _ hr, by simp, s.dumped_onlyChanges x _⟩
  · exact ⟨_, rfl, s.guardBlock_tookFault _ x _ hover⟩

/-- Settles O25: the registers listed by `regsUpTo` take the bytes at their places; an access above 0xFFF raises the
fault. -/
theorem loadFillsTheRegisters : Obligations.LoadFillsTheRegisters := by
  unfold Obligations.LoadFillsTheRegisters
  refine fun x s => ⟨fun hfits => ?_, fun hover => ?_⟩
  · exact ⟨_, exec_load_of_le hfits, fun r hr => s.getV_loaded x r _ hr, by simp, s.loaded_onlyChanges x _⟩
  · exact ⟨_, rfl, s.guardBlock_tookFault _ x _ hover⟩

end Sys2Proof.Machine

/-! PROOFS. The reset event (70_reset_and_hazards R240). What it leaves is said accessor by accessor, for every state;
`State.reset` is what a reset event leaves of `State.reset`, so its values are a case of the same lemma. -/

namespace Sys2Proof.Machine

/-! ### What a reset event leaves -/

section

variable (s : State)

@[simp] theorem State.getV_resetEvent (r : RegIdx) : s.resetEvent.getV r = 0 := Vector.getElem_replicate r.isLt

@[simp] theorem State.key_resetEvent (k : KeyIdx) : s.resetEvent.key k = false := Vector.getElem_replicate k.isLt

@[simp] theorem State.cell_resetEvent (y : Fin fbHeight) (x : Fin fbWidth) : s.resetEvent.cell y x = false :=
  cell_blankFramebuffer y x

/-- No byte is listed any more, and the parameters stay: each byte reads as its reset contents for them. -/
@[simp] theorem State.readByte_resetEvent (a : Nat) : s.resetEvent.readByte a = resetByte s.config a := rfl

theorem State.resetEvent_resetValues : ResetValues s.resetEvent where
  pc := rfl
  regs := s.getV_resetEvent
  index := rfl
  sp := rfl
  dt := rfl
  keys := s.key_resetEvent
  cells := s.cell_resetEvent
  running := rfl
  noFault := rfl
  font j := (s.readByte_resetEvent _).trans (resetByte_font s.config j)
  otherBytes a _ h := (s.readByte_resetEvent a).trans (resetByte_outside s.config a h)

end

theorem State.resetEvent_reset : State.reset.resetEvent = State.reset := rfl

/-! ### The obligation -/

/-- Settles O38: a reset event answers `resetEvent`, which has the values on every state, and on `State.reset` it is
that state itself. -/
theorem resetPutsEveryElementAtItsValue : Obligations.ResetPutsEveryElementAtItsValue := by
  unfold Obligations.ResetPutsEveryElementAtItsValue
  refine ⟨?_, fun s => ⟨s.resetEvent, rfl, s.resetEvent_resetValues⟩⟩
  rw [← State.resetEvent_reset]
  exact State.reset.resetEvent_resetValues

end Sys2Proof.Machine

/-! PROOFS. The decoder and the encoder are inverse (30_encoding R78, R80). The fields of a packed word are its operands,
and its fixed fields take the decoder to its own class; the other direction is `encode_of_decodeWord`. -/

namespace Sys2Proof

/-- Decoding the word of an instruction: the first nibble selects the class, and in the classes with more than one row
the fixed low field selects the row. -/
theorem decodeWord_encode (i : Instr) : decodeWord (encode i) = .ok i := by
  cases i <;> dsimp only [encode]
  case cls | ret => rfl
  case jp | call | ldI | jpV0 => rw [decodeWord, nibA_packAddr, fieldNNN_packAddr]; rfl
  case seImm | sneImm | ldImm | addImm | rnd =>
    rw [decodeWord, nibA_packRegImm, fieldX_packRegImm, fieldNN_packRegImm]; rfl
  case seReg | sneReg | drw =>
    rw [decodeWord, nibA_packRegReg, fieldX_packRegReg, fieldY_packRegReg, nibD_packRegReg]; rfl
  case ldReg | orReg | andReg | xorReg | addReg | subReg | shr | subnReg | shl =>
    rw [decodeWord, nibA_packRegReg, decodeClass8, fieldX_packRegReg, fieldY_packRegReg, nibD_packRegReg]; rfl
  case skp | sknp =>
    rw [decodeWord, nibA_packRegImm, decodeClassE, fieldX_packRegImm, fieldNN_packRegImm]; rfl
  case ldVxDT | ldVxK | ldDTVx | addI | ldF | ldB | dump | load =>
    rw [decodeWord, nibA_packRegImm, decodeClassF, fieldX_packRegImm, fieldNN_packRegImm]; rfl

/-! ### The obligations -/

/-- Settles O46: the two bytes are the word of the instruction, which decodes to it. -/
theorem decodeInvertsEncode : Obligations.DecodeInvertsEncode := by
  unfold Obligations.DecodeInvertsEncode
  intro i rest
  rw [encodeBytes, decode_bytesOfWord, decodeWord_encode]
  rfl

/-- Settles O47: class by class, the fields the decoder reads pack to the word again, as `encode_of_decodeWord` says. -/
theorem encodeInvertsDecode : Obligations.EncodeInvertsDecode := by
  unfold Obligations.EncodeInvertsDecode
  exact fun _ _ => encode_of_decodeWord

/-- Settles O49: the seven words are encodings, and the two fit no row. -/
theorem sampleWordsDecode : Obligations.SampleWordsDecode := by
  unfold Obligations.SampleWordsDecode
  exact ⟨decodeWord_encode (.ldImm 0 0x05), decodeWord_encode (.ldImm 1 0x03), decodeWord_encode (.addReg 0 1),
    decodeWord_encode .cls, decodeWord_encode (.jp 0xABC), decodeWord_encode (.drw 1 2 3),
    decodeWord_encode (.ldVxK 5), decodeWord_of_not_mapped (by decide), decodeWord_of_not_mapped (by decide)⟩

end Sys2Proof

/-! PROOFS. What an instruction may change (10_state R21, R26, R28, R29, R30, R36, R38), said once for all of them: an
instruction completes within the pieces it writes, and a fault changes RunState and the record alone. The statements on
the owners of a piece read this frame piece by piece. -/

namespace Sys2Proof

/-- The pieces of state an instruction may change when it completes. -/
def Instr.writes (i : Instr) : Machine.Piece → Prop
  | .v r => i.destination = some r ∨ (i.writesFlag = true ∧ r = 15) ∨ ∃ x, i = .load x ∧ r ≤ x
  | .pc => True
  | .index => (∃ nnn, i = .ldI nnn) ∨ (∃ x, i = .addI x) ∨ ∃ x, i = .ldF x
  | .stack => (∃ nnn, i = .call nnn) ∨ i = .ret
  | .dt => ∃ x, i = .ldDTVx x
  | .cell _ _ => i = .cls ∨ ∃ x y n, i = .drw x y n
  | .byte _ => (∃ x, i = .ldB x) ∨ ∃ x, i = .dump x
  | .draws => ∃ x nn, i = .rnd x nn
  | .key _ | .runState | .fault | .config | .loadOpen | .schedule => False

end Sys2Proof

namespace Sys2Proof.Machine

/-! ### The frame of an instruction -/

theorem OnlyChanges.countDraw {may : Piece → Prop} {s t : State} (h : OnlyChanges may s t) (hdraws : may .draws) :
    OnlyChanges may s t.countDraw := by
  intro p hp
  cases p
  case draws => exact absurd hdraws hp
  all_goals exact h _ hp

theorem State.raise_onlyChanges (s : State) (c : FaultCause) (op : Word) (n : Nat) :
    OnlyChanges (among [.runState, .fault]) s (s.raise c op n) := by
  intro p hp
  cases p
  case runState => exact absurd (.head _) hp
  case fault => exact absurd (.tail _ (.head _)) hp
  all_goals rfl

/-- A skip writes pc alone, whatever its condition. -/
theorem OnlyChanges.skipIf {may : Piece → Prop} {s t : State} (h : OnlyChanges may s t) (hpc : may .pc) (c : Bool) :
    OnlyChanges may s (t.skipIf c) :=
  t.skipIf_eq c ▸ h.setPc hpc _

/-- An instruction that completes changes no piece but those it writes. -/
theorem Completes.onlyChanges {i : Instr} {s t : State} (h : Completes s t i) : OnlyChanges i.writes s t := by
  have hs : OnlyChanges i.writes s s := .refl _ s
  cases i <;> simp only [Completes] at h
  case cls => subst h; exact (hs.setFb (fun _ _ => .inl rfl) _).setPc trivial _
  case ret => obtain ⟨top, rest, -, rfl⟩ := h; exact (hs.setStack (.inr rfl) _).setPc trivial _
  case jp | jpV0 => subst h; exact hs.setPc trivial _
  case call => obtain ⟨-, rfl⟩ := h; exact (hs.setStack (.inl ⟨_, rfl⟩) _).setPc trivial _
  case seImm | sneImm | seReg | sneReg => subst h; exact hs.skipIf trivial _
  case skp | sknp => obtain ⟨-, rfl⟩ := h; exact hs.skipIf trivial _
  case ldImm | addImm | ldReg | orReg | andReg | xorReg | ldVxDT =>
    subst h; exact (hs.setV (.inl rfl) _).setPc trivial _
  case addReg | subReg | shr | subnReg | shl =>
    subst h; exact ((hs.setV (.inl rfl) _).setV (.inr (.inl ⟨rfl, rfl⟩)) _).setPc trivial _
  case ldI => subst h; exact (hs.setIndex (.inl ⟨_, rfl⟩) _).setPc trivial _
  case addI => subst h; exact (hs.setIndex (.inr (.inl ⟨_, rfl⟩)) _).setPc trivial _
  case ldF => obtain ⟨-, rfl⟩ := h; exact (hs.setIndex (.inr (.inr ⟨_, rfl⟩)) _).setPc trivial _
  case rnd => subst h; exact ((hs.countDraw ⟨_, _, rfl⟩).setV (.inl rfl) _).setPc trivial _
  case drw =>
    obtain ⟨-, rfl⟩ := h
    exact ((hs.setFb (fun _ _ => .inr ⟨_, _, _, rfl⟩) _).setV (.inr (.inl ⟨rfl, rfl⟩)) _).setPc trivial _
  case ldVxK =>
    obtain ⟨-, rfl⟩ | ⟨k, -, rfl⟩ := h
    · exact hs
    · exact (hs.setV (.inl rfl) _).setPc trivial _
  case ldDTVx => subst h; exact (hs.setDt ⟨_, rfl⟩ _).setPc trivial _
  case ldB => obtain ⟨-, rfl⟩ := h; exact (hs.writeBytes (fun _ _ => .inl ⟨_, rfl⟩)).setPc trivial _
  case dump => obtain ⟨-, rfl⟩ := h; exact (hs.writeBytes (fun _ _ => .inr ⟨_, rfl⟩)).setPc trivial _
  case load x =>
    obtain ⟨-, rfl⟩ := h
    exact (hs.loadRegs (fun r hr => .inr (.inr ⟨x, rfl, (mem_regsUpTo x r).mp hr⟩)) _).setPc trivial _

/-- Completing or faulting, an instruction changes only what it writes, RunState and the record. -/
theorem exec_onlyChanges {i : Instr} {s t : State} (h : exec i s = .next t) :
    OnlyChanges (fun p => i.writes p ∨ among [.runState, .fault] p) s t := by
  obtain ⟨-, c, n, -, -, rfl⟩ | hc := exec_inv h
  · exact (s.raise_onlyChanges c _ n).mono fun _ => .inr
  · exact hc.onlyChanges.mono fun _ => .inl

/-- A piece that has changed is one the instruction writes. -/
theorem exec_writes_of_not_same {i : Instr} {s t : State} {p : Piece} (h : exec i s = .next t) (hrun : p ≠ .runState)
    (hfault : p ≠ .fault) (hp : ¬ Same s t p) : i.writes p := by
  by_contra hw
  exact hp (exec_onlyChanges h p (by simp [hw, among, hrun, hfault]))

/-- A completed instruction leaves RunState and the record alone. -/
theorem Completes.keeps_runState_and_fault {i : Instr} {s t : State} (h : Completes s t i) :
    t.runState = s.runState ∧ t.fault = s.fault :=
  ⟨h.onlyChanges .runState id, h.onlyChanges .fault id⟩

theorem exec_answers (i : Instr) (s : State) : ∃ t, exec i s = .next t := by
  cases i
  case ret => simp only [exec, execRet]; split <;> exact ⟨_, rfl⟩
  case call => simp only [exec, execCall]; split <;> exact ⟨_, rfl⟩
  case ldVxK => simp only [exec, execLdVxK]; split <;> exact ⟨_, rfl⟩
  all_goals exact ⟨_, rfl⟩

theorem flagByte_eq_zero_or_one (f : Bool) : flagByte f = 0 ∨ flagByte f = 1 := by cases f <;> decide

/-- A completed flag instruction ends with a flag in VF. -/
theorem Completes.flag {i : Instr} {s t : State} (h : Completes s t i) (hi : i.writesFlag = true) :
    ∃ f, t.getV 15 = flagByte f := by
  cases i <;> simp only [Completes] at h
  case addReg | subReg | shr | subnReg | shl => subst h; exact ⟨_, s.getV_finishFlag_flagReg _ _ _⟩
  case drw => obtain ⟨-, rfl⟩ := h; exact ⟨_, s.getV_setDrawn_flagReg _⟩
  all_goals cases hi

/-! ### The obligations -/

/-- Settles O42: each clause is a piece of the frame `Instr.writes`. -/
theorem eachPieceHasItsWriters : Obligations.EachPieceHasItsWriters := by
  unfold Obligations.EachPieceHasItsWriters
  intro i s t h
  have keeps : ∀ p, p ≠ .runState → p ≠ .fault → ¬ i.writes p → Same s t p :=
    fun p hr hf hw => by_contra fun hp => hw (exec_writes_of_not_same h hr hf hp)
  exact ⟨exec_writes_of_not_same (p := .index) h nofun nofun, exec_writes_of_not_same (p := .stack) h nofun nofun,
    exec_writes_of_not_same (p := .dt) h nofun nofun, fun k => keeps (.key k) nofun nofun id,
    fun ⟨y, x, hc⟩ => exec_writes_of_not_same (p := .cell y x) h nofun nofun hc,
    fun ⟨a, hb⟩ => exec_writes_of_not_same (p := .byte a) h nofun nofun hb,
    keeps .config nofun nofun id, keeps .loadOpen nofun nofun id, keeps .schedule nofun nofun id⟩

/-- Settles O43: a flag instruction that takes no fault completes, and ends with a flag in VF; for the others the frame
leaves VF out, `FX65` included, whose registers end at its destination. -/
theorem flagRegisterHasItsWriters : Obligations.FlagRegisterHasItsWriters := by
  unfold Obligations.FlagRegisterHasItsWriters
  refine fun i s t h => ⟨fun hi _ hrun => ?_, fun hi hdest => ?_⟩
  · obtain ⟨-, c, n, -, -, rfl⟩ | hc := exec_inv h
    · cases hrun
    · obtain ⟨f, hf⟩ := hc.flag hi
      exact hf ▸ flagByte_eq_zero_or_one f
  · by_contra hne
    obtain hd | ⟨hf, -⟩ | ⟨x, rfl, hx⟩ := exec_writes_of_not_same (p := .v 15) h nofun nofun hne
    · exact hdest hd
    · rw [hi] at hf; cases hf
    · exact hdest (congrArg some (le_antisymm (Fin.le_last x) hx))

/-- Settles O15: the byte of the sample is masked bit by bit; `CXNN` alone writes the count. -/
theorem randomByteIsSampledOnceAndMasked : Obligations.RandomByteIsSampledOnceAndMasked := by
  unfold Obligations.RandomByteIsSampledOnceAndMasked
  refine ⟨fun x nn s => ⟨_, rfl, ?_, ?_, rfl, rfl, ?_⟩, fun i s t hi h => by_contra fun hne => ?_⟩
  · simp
  · simp [BitVec.and_assoc]
  · exact (((OnlyChanges.refl _ s).countDraw (.tail _ (.tail _ (.head _)))).setV (.tail _ (.head _)) _).setPc
      (.head _) _
  · obtain ⟨x, nn, rfl⟩ := exec_writes_of_not_same (p := .draws) h nofun nofun hne
    exact hi x nn rfl

/-- Settles O32: only the return, the call and the key wait choose between two answers, and both are next states. -/
theorem everyInstructionAnswersANextState : Obligations.EveryInstructionAnswersANextState := by
  unfold Obligations.EveryInstructionAnswersANextState
  exact exec_answers

/-- Settles O34: an instruction without a fault of its own completes, and completing leaves both pieces alone. -/
theorem nonFaultingInstructionsKeepRunning : Obligations.NonFaultingInstructionsKeepRunning := by
  unfold Obligations.NonFaultingInstructionsKeepRunning
  intro i s hi
  obtain ⟨t, h⟩ := exec_answers i s
  obtain ⟨hf, -⟩ | hc := exec_inv h
  · rw [hi] at hf; cases hf
  · exact ⟨t, h, hc.keeps_runState_and_fault⟩

end Sys2Proof.Machine

/-! PROOFS. The tick (30_encoding R75, R76, R86) and its faults (60_exceptions R200 to R207). The condition of a fault
(`ownFault`, `tickFault`) decides between the two ways an instruction or a tick can end: the fault taken, or
completion. -/

namespace Sys2Proof.Machine

/-! ### A step that is a tick -/

section

variable {s : State}

theorem step_running (hrun : s.runState = .running) (hsched : s.schedule = []) : step s = runTick s.closeLoad :=
  (step_tick s hsched).trans (tick_running s hrun)

theorem step_exec {i : Instr} (hrun : s.runState = .running) (hsched : s.schedule = []) (hpc : s.pc.toNat + 1 ≤ 0xFFF)
    (hd : decodeWord s.fetchWord = .ok i) : step s = exec i s.closeLoad :=
  (step_running hrun hsched).trans (runTick_ok s.closeLoad i hpc hd)

theorem closeLoad_onlyChanges (s : State) : OnlyChanges (among [.loadOpen]) s s.closeLoad := by
  intro p hp
  cases p
  case loadOpen => exact absurd (.head _) hp
  all_goals rfl

/-- What the two bytes at pc decode to is what the fetched word decodes to. -/
theorem decodeWord_of_decode_fetchBytes {i : Instr} (h : decode s.fetchBytes = .ok (i, [])) :
    decodeWord s.fetchWord = .ok i := by
  rw [decode_fetchBytes] at h
  cases hd : decodeWord s.fetchWord with
  | ok j => rw [hd] at h; cases h; rfl
  | error e => rw [hd] at h; cases h

/-- An unmapped word is the info of its own fault, which 17 bits hold. -/
theorem runTick_unmapped_tookFault {e : DecodeError} (hpc : s.pc.toNat + 1 ≤ 0xFFF)
    (hd : decodeWord s.fetchWord = .error e) :
    ∃ t, runTick s = .next t ∧ TookFault s .unsupportedOpcode s.fetchWord s.fetchWord.toNat t :=
  ⟨_, runTick_unmapped s e hpc hd, s.raise_tookFault _ _ _ (s.fetchWord.isLt.trans (by decide))⟩

theorem runTick_fetch_tookFault (hpc : 0xFFF < s.pc.toNat + 1) :
    ∃ t, runTick s = .next t ∧ TookFault s .addressOutOfRange 0 (s.pc.toNat + 1) t :=
  ⟨_, runTick_fault s hpc, s.raise_tookFault _ _ _ (by have := s.pc.isLt; omega)⟩

end

/-! ### The fault of an instruction's own -/

theorem accessFaults_eq_false_iff (base n : Nat) :
    accessFaults base n = false ↔ n = 0 ∨ base + n - 1 ≤ 0xFFF := by
  simp only [accessFaults, decide_eq_false_iff_not]; omega

section

variable {s : State} {i : Instr}

/-- An instruction whose fault is due takes it, with its own word as the opcode. -/
theorem exec_of_ownFault_some {c : FaultCause} {n : Nat} (h : ownFault s i = some (c, n)) :
    c ≠ .noFault ∧ ∃ t, exec i s = .next t ∧ TookFault s c (encode i) n t := by
  cases i <;> simp only [ownFault, Option.ite_none_right_eq_some, Option.some.injEq, Prod.mk.injEq] at h
  case ret =>
    obtain ⟨hsp, rfl, rfl⟩ := h
    exact ⟨nofun, _, exec_ret_of_nil (List.length_eq_zero_iff.mp hsp), s.raise_tookFault _ _ _ (by decide)⟩
  case call =>
    obtain ⟨hsp, rfl, rfl⟩ := h
    exact ⟨nofun, _, exec_call_of_full hsp.ge, s.raise_tookFault _ _ _ (s.returnAddr.isLt.trans (by decide))⟩
  case skp | sknp | ldF =>
    obtain ⟨hgt, rfl, rfl⟩ := h
    exact ⟨nofun, _, rfl, s.guardDigit_tookFault _ _ _ hgt⟩
  case drw x y k =>
    obtain ⟨⟨hpos, hover⟩, rfl, rfl⟩ := h
    exact ⟨nofun, _, rfl, s.guardAccess_tookFault _ _ _ k.isLt.le hpos hover⟩
  case ldB =>
    obtain ⟨hover, rfl, rfl⟩ := h
    exact ⟨nofun, _, rfl, s.guardAccess_tookFault _ 3 _ (by omega) (by omega) hover⟩
  case dump x | load x =>
    obtain ⟨hover, rfl, rfl⟩ := h
    exact ⟨nofun, _, rfl, s.guardBlock_tookFault _ x _ hover⟩
  all_goals cases h

/-- An instruction whose fault is not due completes. -/
theorem exec_of_ownFault_none (hsp : s.sp ≤ s.config.stackDepth) (h : ownFault s i = none) :
    ∃ t, exec i s = .next t ∧ Completes s t i := by
  cases i <;> simp only [ownFault, ite_eq_right_iff, reduceCtorEq, imp_false, Nat.not_lt] at h
  case ret =>
    obtain ⟨top, rest, hs⟩ := List.exists_cons_of_ne_nil (mt List.length_eq_zero_iff.mpr h)
    exact ⟨_, exec_ret_of_cons hs, top, rest, hs, rfl⟩
  case call => exact ⟨_, exec_call_of_lt (hsp.lt_of_ne h), hsp.lt_of_ne h, rfl⟩
  case skp | sknp | ldF => exact ⟨_, congrArg Host.Outcome.next (s.guardDigit_ok _ _ _ h), h, rfl⟩
  case drw x y k =>
    have hfits : k.toNat = 0 ∨ s.base + k.toNat - 1 ≤ 0xFFF := by simp only [State.base]; omega
    exact ⟨_, exec_drw_of_le hfits, (accessFaults_eq_false_iff _ _).mpr hfits, rfl⟩
  case ldB => exact ⟨_, exec_ldB_of_le h, (accessFaults_eq_false_iff _ _).mpr (.inr h), rfl⟩
  case dump => exact ⟨_, exec_dump_of_le h, (accessFaults_eq_false_iff _ _).mpr (.inr h), rfl⟩
  case load => exact ⟨_, exec_load_of_le h, (accessFaults_eq_false_iff _ _).mpr (.inr h), rfl⟩
  case ldVxK =>
    obtain ⟨t, ht⟩ := exec_answers (.ldVxK _) s
    exact ⟨t, ht, (exec_inv ht).resolve_left fun hf => Bool.false_ne_true hf.1⟩
  all_goals exact ⟨_, rfl, rfl⟩

end

/-! ### The fault of a tick -/

section

variable {s : State}

/-- The tick that closes the load port raises the fault of the state before it. -/
theorem tickFault_closeLoad (s : State) : tickFault s.closeLoad = tickFault s := by
  have hown : ∀ i, ownFault s.closeLoad i = ownFault s i := fun i => by cases i <;> rfl
  simp only [tickFault, hown]; rfl

theorem runTick_of_tickFault_some {c : FaultCause} {n : Nat} (h : tickFault s = some (c, n)) :
    c ≠ .noFault ∧ ∃ t, runTick s = .next t ∧
      TookFault s c (if 0xFFF < s.pc.toNat + 1 then 0 else s.fetchWord) n t := by
  by_cases hpc : 0xFFF < s.pc.toNat + 1
  · rw [tickFault, if_pos hpc] at h
    cases h
    rw [if_pos hpc]
    exact ⟨nofun, runTick_fetch_tookFault hpc⟩
  rw [tickFault, if_neg hpc] at h
  rw [if_neg hpc]
  have hpc : s.pc.toNat + 1 ≤ 0xFFF := Nat.not_lt.mp hpc
  cases hd : decodeWord s.fetchWord with
  | error e =>
    rw [hd] at h
    cases h
    exact ⟨nofun, runTick_unmapped_tookFault hpc hd⟩
  | ok i =>
    rw [hd] at h
    rw [runTick_ok s i hpc hd, ← encode_of_decodeWord hd]
    exact exec_of_ownFault_some h

theorem runTick_of_tickFault_none (hsp : s.sp ≤ s.config.stackDepth) (h : tickFault s = none) :
    ∃ t, runTick s = .next t ∧ t.runState = s.runState ∧ t.fault = s.fault := by
  unfold tickFault at h
  split_ifs at h with hpc
  split at h
  case h_2 => cases h
  case h_1 i hd =>
    obtain ⟨t, ht, hc⟩ := exec_of_ownFault_none hsp h
    exact ⟨t, (runTick_ok s i (Nat.not_lt.mp hpc) hd).trans ht, hc.keeps_runState_and_fault⟩

/-- A step that is a tick takes the fault that is due: it is taken by the state with the load port closed. -/
theorem step_of_tickFault_some {c : FaultCause} {n : Nat} (hrun : s.runState = .running) (hsched : s.schedule = [])
    (h : tickFault s = some (c, n)) :
    c ≠ .noFault ∧ ∃ t, step s = .next t ∧
      TookFault s.closeLoad c (if 0xFFF < s.pc.toNat + 1 then 0 else s.fetchWord) n t := by
  rw [step_running hrun hsched]
  exact runTick_of_tickFault_some ((tickFault_closeLoad s).trans h)

end

theorem FaultCause.code_eq_zero_iff (c : FaultCause) : c.code = 0 ↔ c = .noFault := by
  cases c <;> decide

/-! ### The obligations -/

/-- Settles O33: what `tickFault` answers decides between the two ends of a tick. -/
theorem faultsAreExactAndPrecise : Obligations.FaultsAreExactAndPrecise := by
  unfold Obligations.FaultsAreExactAndPrecise
  intro s hrun hsched hsp
  cases h : tickFault s with
  | none =>
    obtain ⟨t, ht, hstate, hfault⟩ :=
      runTick_of_tickFault_none (s := s.closeLoad) hsp ((tickFault_closeLoad s).trans h)
    exact ⟨t, (step_running hrun hsched).trans ht, fun _ => ⟨hstate.trans hrun, hfault⟩, nofun⟩
  | some f =>
    obtain ⟨-, t, ht, htook⟩ := step_of_tickFault_some hrun hsched h
    refine ⟨t, ht, nofun, fun c n hf => ?_⟩
    cases hf
    exact htook

/-- Settles O52: the ports show the record of the fault taken, and the codes of the five causes are distinct from 0. -/
theorem faultPortsShowTheRecord : Obligations.FaultPortsShowTheRecord := by
  unfold Obligations.FaultPortsShowTheRecord
  refine ⟨fun s c n hrun hsched _ hf => ?_, fun s hz => ?_, fun s => ⟨decide_eq_true_iff, fun _ _ => rfl⟩⟩
  · obtain ⟨hne, t, ht, htook⟩ := step_of_tickFault_some hrun hsched hf
    obtain ⟨hhalted, hcause, hpc, hop, hinfo⟩ := htook.ports
    have hcode : ∀ c', c = c' → t.faultCauseOut = c'.code := fun _ hc => hc ▸ hcause
    have hnonzero : t.faultCauseOut ≠ 0 := hcause ▸ mt c.code_eq_zero_iff.mp hne
    exact ⟨t, ht, hhalted, hcode .stackUnderflow, hcode .unsupportedOpcode, hcode .addressOutOfRange,
      hcode .stackOverflow, hcode .operandOutOfRange, hnonzero, hpc, hop, hinfo,
      fun y x => htook.rest (.cell y x) (by simp [among])⟩
  · simp [State.faultCauseOut, State.faultPcOut, State.faultOpcodeOut, State.faultInfoOut, hz, FaultRecord.zero,
      FaultCause.code]

/-- Settles O29: the bytes at pc are the fetched word, and a tick of either kind runs what it decodes to. -/
theorem stepRunsTheDecodedInstruction : Obligations.StepRunsTheDecodedInstruction := by
  unfold Obligations.StepRunsTheDecodedInstruction
  intro s i hrun hpc hdec
  have hd : decodeWord s.fetchWord = .ok i := decodeWord_of_decode_fetchBytes hdec
  refine ⟨fun hsched => step_exec hrun hsched hpc hd, fun rest hsched => ?_, rfl, closeLoad_onlyChanges s⟩
  rw [step_event s .tick rest hsched, applyEvent, tick_running (s.setSchedule rest) hrun]
  exact runTick_ok (s.setSchedule rest).closeLoad i hpc hd

/-- Settles O30: the fault of the fetch comes first; else the word is the two bytes, big-endian. -/
theorem fetchIsBoundsCheckedAndBigEndian : Obligations.FetchIsBoundsCheckedAndBigEndian := by
  unfold Obligations.FetchIsBoundsCheckedAndBigEndian
  refine fun s hrun hsched => ⟨fun hover => ?_, fun hpc => ⟨?_, fun i hd => step_exec hrun hsched hpc hd⟩⟩
  · rw [step_running hrun hsched]
    exact runTick_fetch_tookFault (s := s.closeLoad) hover
  · rw [State.fetchWord, wordOfBytes_toNat, Nat.mul_comm]

/-- Settles O31: a word that fits no row is rejected by the decoder. -/
theorem unmappedWordHalts : Obligations.UnmappedWordHalts := by
  unfold Obligations.UnmappedWordHalts
  intro s hrun hsched hpc hmap
  rw [step_running hrun hsched]
  exact runTick_unmapped_tookFault (s := s.closeLoad) hpc (decodeWord_of_not_mapped hmap)

end Sys2Proof.Machine

/-! PROOFS. The host's events (60_exceptions R206, R220, R222, R226; 70_reset_and_hazards R240, R245). The frame of a
tick comes from the frame of its instruction; a schedule is carried through every event unread, so that stepping
through it is applying its events. -/

namespace Sys2Proof.Machine

/-! ### What an event leaves -/

section

variable {may : Piece → Prop} {s t : State}

theorem OnlyChanges.setKey {k : KeyIdx} (h : OnlyChanges may s t) (hkey : may (.key k)) (pressed : Bool) :
    OnlyChanges may s (t.setKey k pressed) := by
  intro p hp
  cases p
  case key q =>
    have hne : q ≠ k := fun hq => hp (hq ▸ hkey)
    exact (t.key_setKey k q pressed).trans ((if_neg hne).trans (h _ hp))
  all_goals exact h _ hp

theorem OnlyChanges.setSchedule (h : OnlyChanges may s t) (hsched : may .schedule) (es : List HostEvent) :
    OnlyChanges may s (t.setSchedule es) := by
  intro p hp
  cases p
  case schedule => exact absurd hsched hp
  all_goals exact h _ hp

/-- The timer event writes DT alone, clamped at zero (60_exceptions R220). -/
theorem State.timerDec_eq (s : State) : s.timerDec = s.setDt (if s.dt = 0 then 0 else s.dt - 1) := by
  unfold State.timerDec
  split_ifs with h
  · rw [← h]; rfl
  · rfl

theorem toNat_clampedDec (b : Byte) : (if b = 0 then 0 else b - 1 : Byte).toNat = b.toNat - 1 := by
  split_ifs with h
  · rw [h]; rfl
  · bv_omega

/-- A load event answers only while the port is open, and writes its byte. -/
theorem applyEvent_load_inv {a : Addr12} {b : Byte} (h : applyEvent (.load a b) s = .next t) :
    s.loadOpen = true ∧ t = s.writeByte a.toNat b := by
  simp only [applyEvent] at h
  split_ifs at h with ho
  · injection h with h
    exact ⟨ho, h.symm⟩

theorem applyEvent_load_of_open {a : Addr12} {b : Byte} (h : s.loadOpen = true) :
    applyEvent (.load a b) s = .next (s.writeByte a.toNat b) := if_pos h

theorem applyEvent_load_of_closed {a : Addr12} {b : Byte} (h : s.loadOpen = false) :
    applyEvent (.load a b) s = .refused .loadAfterFirstTick := if_neg (by simp [h])

/-- A tick of a running machine leaves a piece that no instruction writes. -/
theorem runTick_same {p : Piece} (h : runTick s = .next t) (hrun : p ≠ .runState) (hfault : p ≠ .fault)
    (hw : ∀ i : Instr, ¬ i.writes p) : Same s t p := by
  have hraise : ∀ c op n, Same s (s.raise c op n) p := fun c op n =>
    s.raise_onlyChanges c op n p (by simp [among, hrun, hfault])
  obtain ⟨-, he⟩ | ⟨-, he⟩ | ⟨-, i, -, he⟩ := runTick_cases s
  · cases he.symm.trans h; exact hraise _ _ _
  · cases he.symm.trans h; exact hraise _ _ _
  · exact by_contra fun hp => hw i (exec_writes_of_not_same (he.symm.trans h) hrun hfault hp)

theorem loadOpen_of_tick (hrun : s.runState = .running) (h : tick s = .next t) : t.loadOpen = false :=
  runTick_same (s := s.closeLoad) (p := .loadOpen) ((tick_running s hrun).symm.trans h) nofun nofun fun _ => id

theorem key_of_tick (h : tick s = .next t) (k : KeyIdx) : t.key k = s.key k := by
  cases hs : s.runState with
  | halted => cases (tick_halted s hs).symm.trans h; rfl
  | running =>
    exact runTick_same (s := s.closeLoad) (p := .key k) ((tick_running s hs).symm.trans h) nofun nofun fun _ => id

end

/-! ### A schedule is carried unread -/

section

variable (s : State) (es : List HostEvent)

theorem State.writeBytes_setSchedule (base : Nat) (bs : List Byte) :
    (s.setSchedule es).writeBytes base bs = (s.writeBytes base bs).setSchedule es := by
  induction bs generalizing s base with
  | nil => rfl
  | cons b rest ih => exact ih (s.writeByte base b) (base + 1)

theorem State.loadRegs_setSchedule (base : Nat) (rs : List RegIdx) :
    (s.setSchedule es).loadRegs base rs = (s.loadRegs base rs).setSchedule es := by
  induction rs generalizing s with
  | nil => rfl
  | cons r rest ih => exact ih (s.setV r (s.readByte (base + r.val)))

theorem State.skipIf_setSchedule (c : Bool) : (s.setSchedule es).skipIf c = (s.skipIf c).setSchedule es := by
  cases c <;> rfl

variable {es} {done done' : State} (h : done' = done.setSchedule es)
include h

theorem State.guardAccess_setSchedule (op : Word) (base n : Nat) :
    (s.setSchedule es).guardAccess op base n done' = (s.guardAccess op base n done).setSchedule es := by
  subst h
  unfold State.guardAccess
  cases accessFaults base n <;> rfl

theorem State.guardDigit_setSchedule (op : Word) (b : Byte) :
    (s.setSchedule es).guardDigit op b done' = (s.guardDigit op b done).setSchedule es := by
  subst h
  unfold State.guardDigit
  split_ifs <;> rfl

end

theorem exec_setSchedule (i : Instr) (s : State) (es : List HostEvent) :
    exec i (s.setSchedule es) = mapNext (·.setSchedule es) (exec i s) := by
  cases i
  case ret =>
    cases hs : s.stack with
    | nil => rw [exec_ret_of_nil hs]; exact exec_ret_of_nil (s := s.setSchedule es) hs
    | cons top rest => rw [exec_ret_of_cons hs]; exact exec_ret_of_cons (s := s.setSchedule es) hs
  case call =>
    obtain hlt | hfull := Nat.lt_or_ge s.sp s.config.stackDepth
    · rw [exec_call_of_lt hlt]; exact exec_call_of_lt (s := s.setSchedule es) hlt
    · rw [exec_call_of_full hfull]; exact exec_call_of_full (s := s.setSchedule es) hfull
  case ldVxK =>
    cases hk : s.currentKey with
    | none => rw [exec_ldVxK_of_none hk]; exact exec_ldVxK_of_none (s := s.setSchedule es) hk
    | some k => rw [exec_ldVxK_of_some hk]; exact exec_ldVxK_of_some (s := s.setSchedule es) hk
  case seImm | sneImm | seReg | sneReg => exact congrArg Host.Outcome.next (s.skipIf_setSchedule es _)
  case skp | sknp =>
    exact congrArg Host.Outcome.next (s.guardDigit_setSchedule (s.skipIf_setSchedule es _) _ _)
  case ldF => refine congrArg Host.Outcome.next (s.guardDigit_setSchedule ?_ _ _); rfl
  case drw => refine congrArg Host.Outcome.next (s.guardAccess_setSchedule ?_ _ _ _); rfl
  case ldB | dump =>
    exact congrArg Host.Outcome.next
      (s.guardAccess_setSchedule (congrArg State.advance (s.writeBytes_setSchedule es _ _)) _ _ _)
  case load =>
    exact congrArg Host.Outcome.next
      (s.guardAccess_setSchedule (congrArg State.advance (s.loadRegs_setSchedule es _ _)) _ _ _)
  all_goals rfl

theorem runTick_setSchedule (s : State) (es : List HostEvent) :
    runTick (s.setSchedule es) = mapNext (·.setSchedule es) (runTick s) := by
  obtain hpc | hpc := Nat.lt_or_ge 0xFFF (s.pc.toNat + 1)
  · rw [runTick_fault s hpc]; exact runTick_fault (s.setSchedule es) hpc
  · cases hd : decodeWord s.fetchWord with
    | error e => rw [runTick_unmapped s e hpc hd]; exact runTick_unmapped (s.setSchedule es) e hpc hd
    | ok i => rw [runTick_ok s i hpc hd, ← exec_setSchedule]; exact runTick_ok (s.setSchedule es) i hpc hd

theorem applyEvent_setSchedule (e : HostEvent) (s : State) (es : List HostEvent) :
    applyEvent e (s.setSchedule es) = mapNext (·.setSchedule es) (applyEvent e s) := by
  cases e with
  | reset => rfl
  | keyChange k p => rfl
  | load a b =>
    cases h : s.loadOpen with
    | true => rw [applyEvent_load_of_open h]; exact applyEvent_load_of_open h
    | false => rw [applyEvent_load_of_closed h]; exact applyEvent_load_of_closed h
  | timerDec => simp only [applyEvent, State.timerDec_eq]; rfl
  | tick =>
    simp only [applyEvent]
    cases h : s.runState with
    | halted => rw [tick_halted s h]; exact tick_halted (s.setSchedule es) h
    | running =>
      rw [tick_running s h, ← runTick_setSchedule]
      exact tick_running (s.setSchedule es) h

theorem schedule_of_applyEvent {e : HostEvent} {s t : State} (h : applyEvent e s = .next t) :
    t.schedule = s.schedule := by
  have hcarried : applyEvent e s = mapNext (·.setSchedule s.schedule) (applyEvent e s) :=
    applyEvent_setSchedule e s s.schedule
  rw [h] at hcarried
  injection hcarried with ht
  rw [ht, State.setSchedule_schedule]

/-- Stepping through a schedule is applying its events (60_exceptions R226). -/
theorem run_setSchedule (es : List HostEvent) (s : State) (hs : s.schedule = []) :
    Host.Core.run core es.length (s.setSchedule es) = applyEvents es s := by
  induction es generalizing s with
  | nil => exact congrArg Host.Outcome.next (hs ▸ rfl : s.setSchedule [] = s)
  | cons e rest ih =>
    have hstep : step (s.setSchedule (e :: rest)) = mapNext (·.setSchedule rest) (applyEvent e s) :=
      (step_event _ e rest rfl).trans (applyEvent_setSchedule e s rest)
    rw [List.length_cons, applyEvents]
    cases h : applyEvent e s with
    | next t =>
      rw [h] at hstep
      exact (run_next hstep).trans (ih t ((schedule_of_applyEvent h).trans hs))
    | fault f => cases f
    | refused r =>
      rw [h] at hstep
      exact run_refused hstep

/-! ### The load events of an image -/

theorem length_loadImageFrom (a : Nat) (bs : List Byte) : (loadImageFrom a bs).length = bs.length := by
  induction bs generalizing a with
  | nil => rfl
  | cons b rest ih => rw [loadImageFrom, List.length_cons, List.length_cons, ih]

/-- With the port open, the load events of bytes below 4096 store them. -/
theorem applyEvents_loadImageFrom (a : Nat) (bs : List Byte) (s : State) (hopen : s.loadOpen = true)
    (hfits : a + bs.length ≤ 4096) : applyEvents (loadImageFrom a bs) s = .next (s.writeBytes a bs) := by
  induction bs generalizing a s with
  | nil => rfl
  | cons b rest ih =>
    rw [List.length_cons] at hfits
    have ha : (BitVec.ofNat 12 a).toNat = a := by rw [BitVec.toNat_ofNat]; omega
    rw [loadImageFrom, applyEvents, applyEvent_load_of_open hopen, ha]
    exact ih (a + 1) (s.writeByte a b) hopen (by omega)

/-! ### The obligations -/

/-- Settles O44: the events of the schedule are applied in its order, each carrying the rest along. -/
theorem scheduleIsOnlyAnOrderOfEvents : Obligations.ScheduleIsOnlyAnOrderOfEvents := by
  unfold Obligations.ScheduleIsOnlyAnOrderOfEvents
  exact run_setSchedule

/-- Settles O39: the load events of an image that fits store its bytes from 0x200 on. -/
theorem loadEventsPlaceTheImage : Obligations.LoadEventsPlaceTheImage := by
  unfold Obligations.LoadEventsPlaceTheImage
  refine fun image => ⟨fun hfits => ?_, fun hover => ?_⟩
  · have hrun : Host.Core.run core image.length (State.reset.setSchedule (loadImage image)) =
        .next (State.reset.writeBytes progBase image) := by
      rw [loadImage_fits image hfits, ← length_loadImageFrom progBase image, run_setSchedule _ _ rfl]
      exact applyEvents_loadImageFrom progBase image State.reset rfl hfits
    have hframe : OnlyChanges (∃ a, · = .byte a) State.reset (State.reset.writeBytes progBase image) :=
      (OnlyChanges.refl _ State.reset).writeBytes fun _ _ => ⟨_, rfl⟩
    refine ⟨_, hrun, fun j hj => ?_, fun a ha => ?_, ?_, ?_⟩
    · exact State.reset.readByte_writeBytes_add progBase (List.getElem?_eq_getElem hj)
    · rw [State.readByte_writeBytes, if_neg (by simp only [progBase]; omega)]
    · exact hframe .pc nofun
    · exact hframe .schedule nofun
  · exact if_neg (by simpa [imageFits, progBase, memSize] using hover)

/-- Settles O41: an event that is no tick writes one piece; a tick writes no key, since no instruction does. -/
theorem eventsChangeOnlyTheirOwnPieces : Obligations.EventsChangeOnlyTheirOwnPieces := by
  unfold Obligations.EventsChangeOnlyTheirOwnPieces
  intro e s t hreset h
  cases e with
  | reset => exact absurd rfl hreset
  | tick =>
    exact ⟨fun hne => absurd rfl hne, fun _ hne => absurd rfl hne, fun hne => absurd rfl hne,
      fun _ => key_of_tick h⟩
  | load a b =>
    obtain ⟨-, rfl⟩ := applyEvent_load_inv h
    exact ⟨fun _ => ⟨fun _ => rfl, rfl, rfl, rfl, fun _ _ => rfl⟩, fun hne => absurd rfl (hne a b),
      fun _ _ => rfl, fun _ _ => rfl⟩
  | timerDec =>
    cases h
    rw [State.timerDec_eq]
    exact ⟨fun _ => ⟨fun _ => rfl, rfl, rfl, rfl, fun _ _ => rfl⟩, fun _ _ _ => rfl,
      fun _ hne => absurd rfl hne, fun _ _ => rfl⟩
  | keyChange k p =>
    cases h
    exact ⟨fun _ => ⟨fun _ => rfl, rfl, rfl, rfl, fun _ _ => rfl⟩, fun _ _ _ => rfl, fun _ _ => rfl,
      fun hne => absurd rfl (hne k p)⟩

/-- Settles O35: a halted tick answers the state itself, and of the other events only reset writes RunState. -/
theorem haltedIsAbsorbing : Obligations.HaltedIsAbsorbing := by
  unfold Obligations.HaltedIsAbsorbing
  intro s hs
  refine ⟨decide_eq_true hs, fun hsched => (step_tick s hsched).trans (tick_halted s hs), fun rest hsched => ?_,
    fun e t hreset h => ?_, _, rfl, rfl, rfl⟩
  · exact (step_event s .tick rest hsched).trans (tick_halted (s.setSchedule rest) hs)
  · cases e with
    | reset => exact absurd rfl hreset
    | tick => cases (tick_halted s hs).symm.trans h; exact ⟨hs, rfl⟩
    | load a b => obtain ⟨-, rfl⟩ := applyEvent_load_inv h; exact ⟨hs, rfl⟩
    | timerDec => cases h; rw [State.timerDec_eq]; exact ⟨hs, rfl⟩
    | keyChange k p => cases h; exact ⟨hs, rfl⟩

/-- Settles O36: the event writes DT, clamped, on the state with the event taken off. -/
theorem timerDecrementIsClamped : Obligations.TimerDecrementIsClamped := by
  unfold Obligations.TimerDecrementIsClamped
  intro s rest hsched
  have hstep : step s = .next ((s.setSchedule rest).setDt (if s.dt = 0 then 0 else s.dt - 1)) := by
    rw [step_event s .timerDec rest hsched, applyEvent, State.timerDec_eq]
    rfl
  exact ⟨_, hstep, toNat_clampedDec s.dt, rfl,
    ((OnlyChanges.refl _ s).setSchedule (.tail _ (.head _)) rest).setDt (.head _) _⟩

/-- Settles O37: the event writes its slot, on the state with the event taken off. -/
theorem keyChangeSetsOneSlot : Obligations.KeyChangeSetsOneSlot := by
  unfold Obligations.KeyChangeSetsOneSlot
  intro s k pressed rest hsched
  refine ⟨_, step_event s (.keyChange k pressed) rest hsched, ?_, rfl,
    ((OnlyChanges.refl _ s).setSchedule (.tail _ (.head _)) rest).setKey (.head _) pressed⟩
  rw [State.key_setKey, if_pos rfl]

/-- Settles O40: the port decides whether the event answers, and no instruction reopens what the tick has closed. -/
theorem loadPortIsOpenBeforeTheFirstTickOnly : Obligations.LoadPortIsOpenBeforeTheFirstTickOnly := by
  unfold Obligations.LoadPortIsOpenBeforeTheFirstTickOnly
  refine fun s addr byte => ⟨fun hopen => ?_, applyEvent_load_of_closed, fun t => loadOpen_of_tick⟩
  refine ⟨_, applyEvent_load_of_open hopen, ?_, (OnlyChanges.refl _ s).writeByte (.head _) byte⟩
  rw [State.readByte_writeByte, if_pos rfl]

/-- Settles O53: `resetEvent` takes the port from `State.reset` and keeps the other three fields. -/
theorem resetReopensTheLoadPort : Obligations.ResetReopensTheLoadPort := by
  unfold Obligations.ResetReopensTheLoadPort
  exact ⟨fun s => ⟨s.resetEvent, rfl, rfl, rfl, rfl, rfl⟩, rfl, rfl, rfl, rfl⟩

end Sys2Proof.Machine

/-! PROOFS. The invariant (10_state R25, R27, R28, R43; 20_memory R50; 60_exceptions R205). Three of its clauses follow
the instructions: where pc can go, what the stack can become and what memory can become, each said once over all of
them. The others come from the frame; a fault and an event keep or set what the clauses on the record ask. -/

namespace Sys2Proof.Machine

/-! ### What an instruction makes of pc, the stack and memory -/

section

variable {i : Instr} {s t : State}

/-- Where a completed instruction leaves pc (10_state R24, R25). -/
theorem Completes.pc_cases (h : Completes s t i) :
    t.pc = s.pc ∨ t.pc = s.pc + 2 ∨ t.pc = s.pc + 4 ∨ t.pc ∈ s.stack ∨ t.pc.toNat ≤ 0x10FE := by
  have skips : ∀ c, (s.skipIf c).pc = s.pc + 2 ∨ (s.skipIf c).pc = s.pc + 4 := fun c => by
    cases c
    · exact .inl rfl
    · exact .inr rfl
  have jumps : ∀ nnn : Addr12, (zextAddr nnn).toNat ≤ 0x10FE := fun nnn => by
    rw [toNat_zextAddr]; exact nnn.isLt.le.trans (by decide)
  cases i <;> simp only [Completes] at h
  case ret => obtain ⟨top, rest, hs, rfl⟩ := h; exact .inr (.inr (.inr (.inl (hs ▸ .head _))))
  case jp nnn => subst h; exact .inr (.inr (.inr (.inr (jumps nnn))))
  case call nnn => obtain ⟨-, rfl⟩ := h; exact .inr (.inr (.inr (.inr (jumps nnn))))
  case jpV0 nnn =>
    subst h
    have h1 := nnn.isLt
    have h2 := (s.getV 0).isLt
    have htarget := toNat_indirectTarget s nnn
    exact .inr (.inr (.inr (.inr (by rw [State.setPc_pc]; omega))))
  case seImm | sneImm | seReg | sneReg => subst h; exact .inr ((skips _).imp id .inl)
  case skp | sknp => obtain ⟨-, rfl⟩ := h; exact .inr ((skips _).imp id .inl)
  case ldVxK =>
    obtain ⟨-, rfl⟩ | ⟨k, -, rfl⟩ := h
    · exact .inl rfl
    · exact .inr (.inl rfl)
  case drw | ldF => obtain ⟨-, rfl⟩ := h; exact .inr (.inl rfl)
  case ldB | dump | load => obtain ⟨-, rfl⟩ := h; exact .inr (.inl (by simp))
  all_goals subst h; exact .inr (.inl rfl)

/-- A completed instruction leaves the stack, pops one entry or pushes the return address (10_state R28). -/
theorem Completes.stack_cases (h : Completes s t i) :
    t.stack = s.stack ∨ (∃ top, s.stack = top :: t.stack) ∨
      (t.stack = (s.pc + 2) :: s.stack ∧ s.sp < s.config.stackDepth) := by
  by_cases hw : i.writes .stack
  · obtain ⟨nnn, rfl⟩ | rfl := hw
    · obtain ⟨hlt, rfl⟩ := h; exact .inr (.inr ⟨rfl, hlt⟩)
    · obtain ⟨top, rest, hs, rfl⟩ := h; exact .inr (.inl ⟨top, hs⟩)
  · exact .inl (h.onlyChanges .stack hw)

/-- The bytes of a store that has passed its check lie below 4096. -/
theorem State.writeBytes_wf_of_access {bs : List Byte} (hs : Memory.wf (resetByte s.config) s.mem)
    (hok : accessFaults s.base bs.length = false) (hpos : 0 < bs.length) :
    Memory.wf (resetByte (s.writeBytes s.base bs).config) (s.writeBytes s.base bs).mem := by
  obtain hzero | hle := (accessFaults_eq_false_iff _ _).mp hok
  · omega
  · exact s.writeBytes_wf s.base bs hs (by simp only [memSize]; omega)

theorem Completes.mem_wf (h : Completes s t i) (hs : Memory.wf (resetByte s.config) s.mem) :
    Memory.wf (resetByte t.config) t.mem := by
  cases i <;> simp only [Completes] at h
  case ldB => obtain ⟨hok, rfl⟩ := h; exact State.writeBytes_wf_of_access hs hok (Nat.succ_pos _)
  case dump x =>
    obtain ⟨hok, rfl⟩ := h
    have hlen : ((regsUpTo x).map s.getV).length = blockLength x := by rw [List.length_map, length_regsUpTo]; rfl
    exact State.writeBytes_wf_of_access hs (hlen ▸ hok) (hlen ▸ Nat.succ_pos _)
  case load x =>
    obtain ⟨-, rfl⟩ := h
    obtain ⟨v, hv⟩ := s.loadRegs_v s.base (regsUpTo x)
    rw [hv]; exact hs
  case ret => obtain ⟨_, _, -, rfl⟩ := h; exact hs
  case seImm | sneImm | seReg | sneReg => subst h; rw [State.skipIf_eq]; exact hs
  case skp | sknp => obtain ⟨-, rfl⟩ := h; rw [State.skipIf_eq]; exact hs
  case ldVxK => obtain ⟨-, rfl⟩ | ⟨k, -, rfl⟩ := h <;> exact hs
  case call | drw | ldF => obtain ⟨-, rfl⟩ := h; exact hs
  all_goals subst h; exact hs

end

/-! ### The invariant, kept by each way a step can end -/

section

variable {s : State}

theorem StateInv.closeLoad (h : StateInv s) : StateInv s.closeLoad :=
  { h with
    faultSet := fun hhalted =>
      have ⟨hcause, hpc, _⟩ := h.faultSet hhalted
      ⟨hcause, hpc, rfl⟩ }

theorem StateInv.setSchedule (h : StateInv s) (es : List HostEvent) : StateInv (s.setSchedule es) := { h with }

theorem StateInv.raise (h : StateInv s) (hclosed : s.loadOpen = false) {c : FaultCause} (hc : c ≠ .noFault)
    (op : Word) (n : Nat) : StateInv (s.raise c op n) :=
  { h with
    faultZero := nofun
    faultSet := fun _ => ⟨hc, rfl, hclosed⟩ }

/-- A pc at which a word can be fetched, moved by an instruction, stays at or below 0x10FE (10_state R25). -/
theorem StateInv.pcBound_of_completes {i : Instr} {t : State} (h : StateInv s) (hpc : s.pc.toNat + 1 ≤ 0xFFF)
    (hc : Completes s t i) : t.pc.toNat ≤ 0x10FE := by
  obtain e | e | e | hmem | hle := hc.pc_cases
  · rw [e]; exact h.pcBound
  · rw [e]; bv_omega
  · rw [e]; bv_omega
  · exact (h.stackLegal _ hmem).2.trans (by decide)
  · exact hle

theorem returnAddrLegal_add_two {pc : Word} (hpc : pc.toNat + 1 ≤ 0xFFF) : returnAddrLegal (pc + 2) := by
  constructor <;> bv_omega

theorem StateInv.stack_of_completes {i : Instr} {t : State} (h : StateInv s) (hpc : s.pc.toNat + 1 ≤ 0xFFF)
    (hc : Completes s t i) : t.sp ≤ s.config.stackDepth ∧ ∀ w ∈ t.stack, returnAddrLegal w := by
  have hbound : s.stack.length ≤ s.config.stackDepth := h.stackBound
  rw [State.sp]
  obtain e | ⟨top, e⟩ | ⟨e, hlt⟩ := hc.stack_cases
  · exact e ▸ ⟨hbound, h.stackLegal⟩
  · have hlegal := h.stackLegal
    rw [e] at hbound hlegal
    exact ⟨Nat.le_of_succ_le hbound, fun w hw => hlegal w (.tail _ hw)⟩
  · rw [e]
    refine ⟨hlt, fun w hw => ?_⟩
    obtain rfl | hw := List.mem_cons.mp hw
    · exact returnAddrLegal_add_two hpc
    · exact h.stackLegal w hw

theorem StateInv.completes {i : Instr} {t : State} (h : StateInv s) (hrun : s.runState = .running)
    (hpc : s.pc.toNat + 1 ≤ 0xFFF) (hc : Completes s t i) : StateInv t := by
  obtain ⟨hstate, hfault⟩ := hc.keeps_runState_and_fault
  have hconfig : t.config = s.config := hc.onlyChanges .config id
  obtain ⟨hbound, hlegal⟩ := h.stack_of_completes hpc hc
  exact
    { configWf := hconfig ▸ h.configWf
      memWf := hc.mem_wf h.memWf
      stackBound := hconfig ▸ hbound
      stackLegal := hlegal
      pcBound := h.pcBound_of_completes hpc hc
      faultZero := fun _ => hfault.trans (h.faultZero hrun)
      faultSet := fun hhalted => by rw [hstate, hrun] at hhalted; cases hhalted }

theorem StateInv.runTick {t : State} (h : StateInv s) (hrun : s.runState = .running) (hclosed : s.loadOpen = false)
    (ht : runTick s = .next t) : StateInv t := by
  obtain ⟨-, he⟩ | ⟨-, he⟩ | ⟨hpc, i, -, he⟩ := runTick_cases s
  · cases he.symm.trans ht; exact h.raise hclosed (c := .addressOutOfRange) nofun _ _
  · cases he.symm.trans ht; exact h.raise hclosed (c := .unsupportedOpcode) nofun _ _
  · obtain ⟨-, c, n, hc, -, rfl⟩ | hc := exec_inv (he.symm.trans ht)
    · exact h.raise hclosed hc _ _
    · exact h.completes hrun hpc hc

theorem StateInv.tick {t : State} (h : StateInv s) (ht : tick s = .next t) : StateInv t := by
  cases hs : s.runState with
  | halted => cases (tick_halted s hs).symm.trans ht; exact h
  | running => exact h.closeLoad.runTick hs rfl ((tick_running s hs).symm.trans ht)

theorem State.resetEvent_stateInv (h : s.config.wf = true) : StateInv s.resetEvent where
  configWf := h
  memWf := Memory.nil_wf _
  stackBound := Nat.zero_le _
  stackLegal := nofun
  pcBound := (by decide : (0x0200 : Word).toNat ≤ 0x10FE)
  faultZero _ := rfl
  faultSet := nofun

/-- Every event keeps the invariant; an address of 12 bits is one of the 4096 that the canonical form may list. -/
theorem StateInv.applyEvent {e : HostEvent} {t : State} (h : StateInv s) (ht : applyEvent e s = .next t) :
    StateInv t := by
  cases e with
  | reset => cases ht; exact State.resetEvent_stateInv h.configWf
  | tick => exact h.tick ht
  | load a b =>
    obtain ⟨-, rfl⟩ := applyEvent_load_inv ht
    exact { h with memWf := Memory.write_wf _ h.memWf a.isLt }
  | timerDec => cases ht; rw [State.timerDec_eq]; exact { h with }
  | keyChange k p => cases ht; exact { h with }

end

/-! ### The obligations -/

/-- Settles O50: the next event of the schedule, or the tick of an empty one, keeps the invariant. -/
theorem everyStepKeepsTheInvariant : Obligations.EveryStepKeepsTheInvariant := by
  unfold Obligations.EveryStepKeepsTheInvariant
  intro s t h ht
  cases hsched : s.schedule with
  | nil => exact h.tick ((step_tick s hsched).symm.trans ht)
  | cons e rest => exact (h.setSchedule rest).applyEvent ((step_event s e rest hsched).symm.trans ht)

/-- Settles O51: `State.reset` is what a reset event leaves of itself, whose parameters are the defaults. -/
theorem resetMeetsTheInvariant : Obligations.ResetMeetsTheInvariant := by
  unfold Obligations.ResetMeetsTheInvariant
  exact State.resetEvent_reset ▸ State.resetEvent_stateInv (s := State.reset) rfl

end Sys2Proof.Machine

/-! PROOFS. Runs of one or more ticks: the call that returns (40_control_flow R111), the key wait (45_keypad R173) and
the jump to itself (70_reset_and_hazards R250). Each tick is the instruction whose word stands at pc, on the state with
the load port closed. -/

namespace Sys2Proof.Machine

/-- A tick of a running machine runs the instruction whose encoding stands at pc. -/
theorem step_of_fetchWord {s : State} {i : Instr} (hrun : s.runState = .running) (hsched : s.schedule = [])
    (hpc : s.pc.toNat ≤ 0xFFE) (hw : s.fetchWord = encode i) : step s = exec i s.closeLoad :=
  step_exec hrun hsched (Nat.succ_le_succ hpc) (hw ▸ decodeWord_encode i)

theorem State.closeLoad_of_closed {s : State} (h : s.loadOpen = false) : s.closeLoad = s := by
  rw [State.closeLoad, ← h]

/-- Ticks of a waiting machine with no key pressed close the load port and do nothing else, however many. -/
theorem run_ldVxK_of_no_key {x : RegIdx} (k : Nat) {s : State} (hrun : s.runState = .running) (hsched : s.schedule = [])
    (hpc : s.pc.toNat ≤ 0xFFE) (hw : s.fetchWord = encode (.ldVxK x)) (hkeys : ∀ key, s.key key = false) :
    Host.Core.run core k s = .next s ∨ Host.Core.run core k s = .next s.closeLoad := by
  induction k generalizing s with
  | zero => exact .inl rfl
  | succ k ih =>
    have hnone : s.closeLoad.currentKey = none := s.closeLoad.currentKey_none hkeys
    have hstep : step s = .next s.closeLoad :=
      (step_of_fetchWord hrun hsched hpc hw).trans (exec_ldVxK_of_none hnone)
    rw [run_next hstep]
    exact .inr ((ih (s := s.closeLoad) hrun hsched hpc hw hkeys).elim id id)

/-- A jump whose target is its own pc leaves the state it is executed on, whole. -/
theorem exec_jp_self (s : State) {nnn : Addr12} (h : nnn.toNat = s.pc.toNat) : exec (.jp nnn) s = .next s := by
  have htarget : zextAddr nnn = s.pc := BitVec.eq_of_toNat_eq ((toNat_zextAddr nnn).trans h)
  exact congrArg Host.Outcome.next (htarget ▸ rfl : s.setPc (zextAddr nnn) = s)

/-- The word of a finished program is the jump to its own address. -/
theorem Finished.fetchWord {s : State} (h : Finished s) : s.fetchWord = encode (.jp (BitVec.ofNat 12 s.pc.toNat)) := by
  obtain ⟨-, hpc, hw⟩ := h
  apply BitVec.eq_of_toNat_eq
  rw [State.fetchWord, wordOfBytes_toNat, hw, encode, packAddr_toNat, BitVec.toNat_ofNat, Nat.mod_eq_of_lt (by omega)]
  rfl

/-! ### The obligations -/

/-- Settles O7: the call pushes `pc0 + 2`, and the return at its target pops it. -/
theorem callThenReturnComesBack : Obligations.CallThenReturnComesBack := by
  unfold Obligations.CallThenReturnComesBack
  intro nnn s hrun hsched hpc hnnn hsp hcall hhi hlo
  let t := (s.closeLoad.setStack (s.returnAddr :: s.stack)).setPc (zextAddr nnn)
  have ht : step s = .next t := (step_of_fetchWord hrun hsched hpc hcall).trans (exec_call_of_lt (s := s.closeLoad) hsp)
  have htpc : t.pc.toNat = nnn.toNat := toNat_zextAddr nnn
  have hret : t.fetchWord = encode .ret := by
    have h1 : t.readByte t.pc.toNat = 0x00 := htpc ▸ hhi
    have h2 : t.readByte (t.pc.toNat + 1) = 0xEE := htpc ▸ hlo
    rw [State.fetchWord, h1, h2]
    rfl
  have hu : step t = .next ((t.closeLoad.setStack s.stack).setPc s.returnAddr) :=
    (step_of_fetchWord (s := t) hrun hsched (htpc ▸ hnnn) hret).trans (exec_ret_of_cons (s := t.closeLoad) rfl)
  refine ⟨t, _, ht, hu, rfl, rfl, fun p hp => ?_⟩
  cases p
  case pc => exact absurd (.head _) hp
  case loadOpen => exact absurd (.tail _ (.head _)) hp
  all_goals rfl

/-- Settles O21: the run answers the state itself or the state with the load port closed. -/
theorem keyWaitRepeatsWhileNoKeyIsPressed : Obligations.KeyWaitRepeatsWhileNoKeyIsPressed := by
  unfold Obligations.KeyWaitRepeatsWhileNoKeyIsPressed
  intro x s k hrun hsched hpc hw hkeys
  obtain h | h := run_ldVxK_of_no_key k hrun hsched hpc hw hkeys
  · exact ⟨s, h, .refl _ s, fun _ => rfl⟩
  · exact ⟨s.closeLoad, h, closeLoad_onlyChanges s, State.closeLoad_of_closed⟩

/-- Settles O45: the jump leaves the state with the load port closed, which stands on the same word. -/
theorem jumpToItselfStands : Obligations.JumpToItselfStands := by
  unfold Obligations.JumpToItselfStands
  intro s hfin hsched
  have ⟨hrun, hpc, _⟩ := hfin
  have hself : (BitVec.ofNat 12 s.pc.toNat).toNat = s.closeLoad.pc.toNat :=
    (BitVec.toNat_ofNat _ _).trans (Nat.mod_eq_of_lt (by omega))
  exact ⟨s.closeLoad, (step_of_fetchWord hrun hsched hpc hfin.fetchWord).trans (exec_jp_self _ hself), hfin,
    closeLoad_onlyChanges s⟩

end Sys2Proof.Machine

/-! PROOFS. Laws of the sprite draw (44_draw R160, R161), of the block transfer (47_bcd_block R188; 20_memory R61) and of
the memory's canonical form. Those of the draw and the transfer are derived, as the spec derives them, from what one
`DXYN`, `FX55` or `FX65` leaves, which is settled above. -/

namespace Sys2Proof.Machine

/-! ### The sprite draw -/

/-- What a sprite covers is read from `I` and memory alone. -/
theorem spriteCovers_congr {s t : State} (hindex : t.index = s.index) (hbytes : ∀ a, t.readByte a = s.readByte a)
    (x0 y0 n : Nat) (cy : Fin fbHeight) (cx : Fin fbWidth) :
    spriteCovers t x0 y0 n cy cx = spriteCovers s x0 y0 n cy cx := by
  simp only [spriteCovers, hindex, hbytes]

/-- On the cell of pixel `dx` in row `dy` no other pixel of the sprite falls, so the sprite covers it iff that pixel is
set (R157, R159). -/
theorem spriteCovers_at (s : State) {x0 y0 n dy dx : Nat} {cy : Fin fbHeight} {cx : Fin fbWidth} (hn : n ≤ 32)
    (hdy : dy < n) (hdx : dx < 8) (hcy : cy.val = (y0 + dy) % 32) (hcx : cx.val = (x0 + dx) % 64) :
    spriteCovers s x0 y0 n cy cx = (s.readByte (s.index.toNat + dy)).getLsbD (7 - dx) := by
  apply Bool.eq_iff_iff.mpr
  simp only [spriteCovers, List.any_eq_true, List.mem_range, Bool.and_eq_true, beq_iff_eq]
  constructor
  · rintro ⟨ey, hey, ex, hex, ⟨hy, hx⟩, hbit⟩
    obtain rfl : ey = dy := by omega
    obtain rfl : ex = dx := by omega
    exact hbit
  · exact fun hbit => ⟨dy, hdy, dx, hdx, ⟨hcy.symm, hcx.symm⟩, hbit⟩

/-- A completed draw XORs each cell with the sprite. -/
theorem cell_of_exec_drw {x y : RegIdx} {n : Nibble} {s t : State}
    (hfits : n.toNat = 0 ∨ s.index.toNat + n.toNat - 1 ≤ 0xFFF) (h : exec (.drw x y n) s = .next t)
    (cy : Fin fbHeight) (cx : Fin fbWidth) :
    t.cell cy cx = (s.cell cy cx ^^ spriteCovers s (s.getV x).toNat (s.getV y).toNat n.toNat cy cx) := by
  obtain ⟨t', ht', hcells, -⟩ := (drawXorsTheSpriteAndFlagsCollision x y n s).1 hfits
  cases ht'.symm.trans h
  exact hcells cy cx

/-- Settles O17: the second draw XORs the same sprite again, and a covered cell is lit before it iff it was unlit before
the first. -/
theorem drawTwiceRestoresTheGrid : Obligations.DrawTwiceRestoresTheGrid := by
  unfold Obligations.DrawTwiceRestoresTheGrid
  intro x y n s t hfits hst hx hy
  obtain ⟨t', ht', hcells, -, -, -, hframe⟩ := (drawXorsTheSpriteAndFlagsCollision x y n s).1 hfits
  cases ht'.symm.trans hst
  have hindex : t.index = s.index := hframe .index (by simp)
  have hcovers := spriteCovers_congr hindex fun a => hframe (.byte a) (by simp)
  obtain ⟨u, hu, hcells', hset, hclear, -, hframe'⟩ :=
    (drawXorsTheSpriteAndFlagsCollision x y n t).1 (hindex.symm ▸ hfits)
  simp only [hx, hy, hcovers, hcells] at hcells' hset hclear
  have hrestored : ∀ cy cx, u.cell cy cx = s.cell cy cx := fun cy cx => by
    rw [hcells', Bool.xor_assoc, Bool.xor_self, Bool.xor_false]
  refine ⟨u, hu, hrestored, ⟨fun h15 => ?_, fun ⟨cy, cx, hunlit, hcov⟩ => ?_⟩, fun p hp => ?_⟩
  · by_contra hnone
    have hzero : u.getV 15 = 0 := hclear fun ⟨cy, cx, hlit, hcov⟩ =>
      hnone ⟨cy, cx, by simpa [hcov] using hlit, hcov⟩
    exact absurd (hzero.symm.trans h15) (by decide)
  · exact hset ⟨cy, cx, by simp [hunlit, hcov], hcov⟩
  · by_cases hcell : ∃ cy cx, p = .cell cy cx
    · obtain ⟨cy, cx, rfl⟩ := hcell
      exact hrestored cy cx
    · have hout : ¬ (p = .pc ∨ p = .v 15 ∨ ∃ cy cx, p = .cell cy cx) := by simpa [among, hcell] using hp
      exact (hframe p hout).trans (hframe' p hout)

/-- Settles O18: at either edge the cell named is the one that pixel `dx` of row `dy` wraps to. -/
theorem drawWrapsAtTheEdges : Obligations.DrawWrapsAtTheEdges := by
  unfold Obligations.DrawWrapsAtTheEdges
  intro x y n s t dy dx hfits h hdy hdx
  have hrows : n.toNat ≤ 32 := n.isLt.le.trans (by decide)
  have hpixel : ∀ (cy : Fin fbHeight) (cx : Fin fbWidth), cy.val = ((s.getV y).toNat + dy) % 32 →
      cx.val = ((s.getV x).toNat + dx) % 64 →
      t.cell cy cx = (s.cell cy cx ^^ (s.readByte (s.index.toNat + dy)).getLsbD (7 - dx)) := fun cy cx hcy hcx => by
    rw [cell_of_exec_drw (.inr hfits) h, spriteCovers_at s hrows hdy hdx hcy hcx]
  have hrows : n.toNat < 16 := n.isLt
  refine ⟨fun hedge cy cx hcy hcx => hpixel cy cx hcy ?_, fun hedge cy cx hcx hcy => hpixel cy cx ?_ hcx⟩
  · rw [hcx, hedge]; split_ifs <;> omega
  · rw [hcy, hedge]; split_ifs <;> omega

/-! ### The block transfer -/

/-- Settles O26: each register comes back from the byte it was stored in, and each byte from the register it was loaded
into; the rest is in neither frame. -/
theorem dumpAndLoadRoundTrip : Obligations.DumpAndLoadRoundTrip := by
  unfold Obligations.DumpAndLoadRoundTrip
  refine fun x s hfits => ⟨?_, ?_⟩
  · obtain ⟨t, ht, hbytes, -, hframe⟩ := (dumpStoresTheRegisters x s).1 hfits
    have hindex : t.index = s.index := hframe .index (by simp)
    obtain ⟨u, hu, hregs, -, hframe'⟩ := (loadFillsTheRegisters x t).1 (hindex.symm ▸ hfits)
    refine ⟨t, u, ht, hu, fun r => ?_⟩
    by_cases hr : r ≤ x
    · rw [hregs r hr, hindex, hbytes r hr]
    · exact (hframe (.v r) (by simp)).trans (hframe' (.v r) (by simpa using hr))
  · obtain ⟨t, ht, hregs, -, hframe⟩ := (loadFillsTheRegisters x s).1 hfits
    have hindex : t.index = s.index := hframe .index (by simp)
    obtain ⟨u, hu, hbytes, -, hframe'⟩ := (dumpStoresTheRegisters x t).1 (hindex.symm ▸ hfits)
    rw [hindex] at hbytes hframe'
    refine ⟨t, u, ht, hu, fun a => ?_⟩
    by_cases hr : ∃ r : RegIdx, r ≤ x ∧ a = s.index.toNat + r.val
    · obtain ⟨r, hrx, rfl⟩ := hr
      rw [hbytes r hrx, hregs r hrx]
    · exact (hframe (.byte a) (by simp)).trans (hframe' (.byte a) (by simpa using hr))

/-- Settles O27: the two bytes of the fetch are the two registers stored there. -/
theorem storedBytesAreFetched : Obligations.StoredBytesAreFetched := by
  unfold Obligations.StoredBytesAreFetched
  intro x s k lo hi hfits hk hhi hlo
  obtain ⟨t, ht, hbytes, -, -⟩ := (dumpStoresTheRegisters x s).1 hfits
  refine ⟨t, ht, fun pc hpc => ?_⟩
  have hhibyte : t.readByte pc.toNat = s.getV hi := by rw [hpc, ← hhi]; exact hbytes hi (Fin.le_def.mpr (by omega))
  have hlobyte : t.readByte (pc.toNat + 1) = s.getV lo := by
    rw [hpc, Nat.add_assoc, ← hlo]; exact hbytes lo (Fin.le_def.mpr (by omega))
  rw [State.fetchWord, wordOfBytes]
  exact congrArg₂ (· ++ ·) hhibyte hlobyte

/-! ### The canonical form of memory -/

section

variable {d : Nat → Byte} {m n : Memory}

/-- A read that is not the unlisted value is of a listed entry. -/
theorem Memory.mem_of_read_ne {a : Nat} (h : m.read d a ≠ d a) : (a, m.read d a) ∈ m := by
  induction m with
  | nil => exact absurd rfl h
  | cons e rest ih =>
    obtain ⟨k, u⟩ := e
    rw [Memory.read] at h ⊢
    split_ifs at h ⊢ with hk
    · exact hk ▸ .head _
    · exact .tail _ (ih h)

/-- With addresses strictly rising, each entry is the one its address reads. -/
theorem Memory.read_of_mem (hm : m.Pairwise (fun c e => c.1 < e.1)) {e : Host.Cell} (he : e ∈ m) :
    m.read d e.1 = e.2 := by
  induction m with
  | nil => cases he
  | cons c rest ih =>
    obtain ⟨hc, hrest⟩ := List.pairwise_cons.mp hm
    rw [Memory.read]
    obtain rfl | he := List.mem_cons.mp he
    · exact if_pos rfl
    · rw [if_neg (hc e he).ne, ih hrest he]

/-- The entries of a canonical memory are read off it. -/
theorem Memory.mem_iff_read (hm : m.wf d) (e : Host.Cell) : e ∈ m ↔ m.read d e.1 = e.2 ∧ e.2 ≠ d e.1 := by
  refine ⟨fun he => ⟨Memory.read_of_mem hm.1 he, (hm.2 e he).2⟩, fun ⟨hread, hne⟩ => ?_⟩
  rw [← hread] at hne
  have hmem := Memory.mem_of_read_ne hne
  rwa [hread] at hmem

end

/-- Settles O28: two canonical memories that read alike have the same entries, and a strictly sorted list is determined
by its members. -/
theorem canonicalMemoryIsDetermined : Obligations.CanonicalMemoryIsDetermined := by
  unfold Obligations.CanonicalMemoryIsDetermined
  intro unlisted m n hm hn hread
  have hmem : ∀ e, e ∈ m ↔ e ∈ n := fun e => by
    rw [Memory.mem_iff_read hm, Memory.mem_iff_read hn, hread]
  have hirrefl : Std.Irrefl fun c e : Host.Cell => c.1 < e.1 := ⟨fun _ => Nat.lt_irrefl _⟩
  have hantisymm : Std.Antisymm fun c e : Host.Cell => c.1 < e.1 := ⟨fun _ _ h h' => absurd h' h.asymm⟩
  exact hm.1.eq_of_mem_iff hn.1 hmem

end Sys2Proof.Machine
